-- ==== Sys2Proof/Word.lean ====
section
/-! DEFINITION. The widths of the block's values (`00_scope.md` R8, R11, R12).
Every value is an unsigned bit vector, bit 0 least significant. -/

namespace Sys2Proof

/-- A field element: bit `i` is the coefficient of `x^i` (R12). All 256 patterns are elements. -/
abbrev Byte := BitVec 8

/-- A carry-less product, bits 14..0 (R8). -/
abbrev Product := BitVec 15

/-- The operation code on `req_op` (R24, R51). -/
abbrev OpCode := BitVec 2

/-- The notational command word `CMD[17:0]` (R50). -/
abbrev CommandWord := BitVec 18

end Sys2Proof
end

