-- ==== Sys2Proof/Syntax.lean ====
section
/-! DEFINITION. The commands: one constructor per row of `spec/opcode_table.json` (`30_encoding.md` R50, R51). -/

namespace Sys2Proof

/-- A command with its two operand bytes, taken verbatim (R53). -/
inductive Instr where
  /-- ADD, format RR, `op = 0b00` (R70). -/
  | add (a b : Byte)
  /-- SUB, format RR, `op = 0b01` (R71). -/
  | sub (a b : Byte)
  /-- MUL, format RR, `op = 0b10` (R82). -/
  | mul (a b : Byte)
  /-- INV, format RX, `op = 0b11` (R101). `b` is the don't-care field `CMD[7:0]`: kept here, so that a command
  is exactly its word, and read by no meaning (R34, R54). -/
  | inv (a b : Byte)
deriving DecidableEq, Repr

end Sys2Proof
end

