-- ==== Sys2Proof/WellFormed.lean ====
section
/-! DEFINITION. Well-formedness. Every value of `op`, `a` and `b` that the ports can carry is valid (R53, R54), so
the only checks there are say that a number fits its port. They bite on a request written as numbers
(a listing's literals, R58; a table word); a typed `Instr` always passes them. -/

namespace Sys2Proof

/-- A request written as three numbers, before it is known to fit the ports. -/
structure CommandFields where
  op : Nat
  a : Nat
  b : Nat
deriving DecidableEq, Repr

/-- The number on `req_op` fits its two bits (R24). -/
def CommandFields.opFits (f : CommandFields) : Bool := f.op < 4

/-- The number on `req_a` is a byte (R24, R53). -/
def CommandFields.aFits (f : CommandFields) : Bool := f.a < 256

/-- The number on `req_b` is a byte (R24, R53). -/
def CommandFields.bFits (f : CommandFields) : Bool := f.b < 256

def CommandFields.wellFormed (f : CommandFields) : Bool := f.opFits && f.aFits && f.bFits

/-- The numbers a command puts on the three request ports (R50, R51). -/
def Instr.fields : Instr → CommandFields
  | .add a b => ⟨0, a.toNat, b.toNat⟩
  | .sub a b => ⟨1, a.toNat, b.toNat⟩
  | .mul a b => ⟨2, a.toNat, b.toNat⟩
  | .inv a b => ⟨3, a.toNat, b.toNat⟩

/-- A command is well-formed when its numbers fit the ports. -/
def Instr.wellFormed (i : Instr) : Bool := i.fields.wellFormed

end Sys2Proof
end

