-- ==== Sys2Proof/Decode.lean ====
section
/-! DEFINITION. The decoder, the encoder and the opcode table (`30_encoding.md` R50 to R57, section 6). -/

namespace Sys2Proof

/-- `CMD = {req_op, req_a, req_b}` (R50). -/
def commandWord (op : OpCode) (a b : Byte) : CommandWord := op ++ a ++ b

/-- `CMD[17:16]`. -/
def opField (c : CommandWord) : OpCode := c.extractLsb' 16 2

/-- `CMD[15:8]`. -/
def aField (c : CommandWord) : Byte := c.extractLsb' 8 8

/-- `CMD[7:0]`. -/
def bField (c : CommandWord) : Byte := c.extractLsb' 0 8

/-- Selection by `op` (R51, R52). The four codes are all there are, so the last arm is `0b11`. -/
def decodeFields (op : OpCode) (a b : Byte) : Instr :=
  if op = 0b00 then .add a b
  else if op = 0b01 then .sub a b
  else if op = 0b10 then .mul a b
  else .inv a b

/-- Decode is total on command words and never fails (R52, R54). -/
def decode (c : CommandWord) : Instr := decodeFields (opField c) (aField c) (bField c)

/-- Why a number is no command. No command WORD is rejected (R54): only a number that the 18 bits cannot hold, or a
field that does not fit its port. -/
inductive DecodeReject where
  | notACommandWord (w : Nat)
  | opDoesNotFit (op : Nat)
  | aDoesNotFit (a : Nat)
  | bDoesNotFit (b : Nat)
deriving DecidableEq, Repr

/-- The command a number stands for, read as `CMD[17:0]`. -/
def decodeNat (w : Nat) : Except DecodeReject Instr :=
  if w < 2 ^ 18 then .ok (decode (BitVec.ofNat 18 w)) else .error (.notACommandWord w)

/-- The command that three numbers stand for, with the first check that refuses them. -/
def decodeNumbers (f : CommandFields) : Except DecodeReject Instr :=
  if !f.opFits then .error (.opDoesNotFit f.op)
  else if !f.aFits then .error (.aDoesNotFit f.a)
  else if !f.bFits then .error (.bDoesNotFit f.b)
  else .ok (decodeFields (BitVec.ofNat 2 f.op) (BitVec.ofNat 8 f.a) (BitVec.ofNat 8 f.b))

/-- The command of an opcode-table word: bits `nbits-1..0` of `w`, the bits above them 0. -/
def decodeTableWord (nbits w : Nat) : Option Instr :=
  match decodeNat (w % 2 ^ nbits) with
  | .ok i => some i
  | .error _ => none

/-- The operation code of a command (R51). -/
def Instr.opCode : Instr → OpCode
  | .add _ _ => 0b00
  | .sub _ _ => 0b01
  | .mul _ _ => 0b10
  | .inv _ _ => 0b11

/-- The byte on `req_a`. -/
def Instr.operandA : Instr → Byte
  | .add a _ => a
  | .sub a _ => a
  | .mul a _ => a
  | .inv a _ => a

/-- The byte on `req_b`; a don't-care for INV (R54). -/
def Instr.operandB : Instr → Byte
  | .add _ b => b
  | .sub _ b => b
  | .mul _ b => b
  | .inv _ b => b

/-- The word of a command (R50, R70, R71, R82, R101). -/
def encode (i : Instr) : CommandWord := commandWord i.opCode i.operandA i.operandB

/-- A row of the opcode table: a word is the row's when `word & mask = match` (section 6). -/
structure OpcodeRow where
  mnemonic : String
  mask : CommandWord
  pattern : CommandWord
deriving DecidableEq, Repr

/-- The four rows of `opcode_table.json`. -/
def opcodeTable : List OpcodeRow :=
  [⟨"ADD", 0x30000, 0x00000⟩, ⟨"SUB", 0x30000, 0x10000⟩, ⟨"MUL", 0x30000, 0x20000⟩, ⟨"INV", 0x30000, 0x30000⟩]

def OpcodeRow.holds (r : OpcodeRow) (c : CommandWord) : Bool := c &&& r.mask = r.pattern

/-- The mnemonic of a command (R51). -/
def Instr.mnemonic : Instr → String
  | .add _ _ => "ADD"
  | .sub _ _ => "SUB"
  | .mul _ _ => "MUL"
  | .inv _ _ => "INV"

end Sys2Proof
end

