-- ==== Sys2Proof/Config.lean ====
section
/-! DEFINITION. What an implementation fixes (`LAT`) and the free values: constants with no body,
so that no proof can see a value of theirs. -/

namespace Sys2Proof

/-- How many slots the built part has beyond the first; any natural number (R9, 93 I1; log entry 1). -/
opaque Config.extraStages : Nat

/-- The latency of the built part, `LAT >= 1` (R9). It sizes `State.reset`'s pipeline only: every operation
reads `LAT` off the pipeline in front of it, so that a claim over all states is a claim for every `LAT`. -/
def Config.LAT : Nat := Config.extraStages + 1

/-! The free values. Each is keyed by `stream`, the source the part in front of it draws from, so that several parts
need not draw alike (R39, R130; log entry 15); by `t`, so that each draw is a fresh one (log entry 7); by the
slot `k`; and by `held`, the valid and data bits of every slot before it, because the block need not erase
anything (R36). -/

/-- The data bits of slot `k` right after reset: unspecified (R37; log entry 2). -/
opaque Config.resetData : (stream k : Nat) → Byte

/-- The data bits written into an invalid slot `k` at an edge (R29, R30: "any value"; log entry 3). -/
opaque Config.staleData : (stream t k : Nat) → (held : List (Bool × Byte)) → Byte

/-- `rsp_data` in a cycle with `rsp_valid = 0` (R32; log entry 4). -/
opaque Config.idleRspData : (stream t : Nat) → (held : List (Bool × Byte)) → Byte

/-- The valid bit of slot `k` when power returns (R38, R132; log entry 5). -/
opaque Config.powerUpValid : (stream t k : Nat) → (held : List (Bool × Byte)) → Bool

/-- The data bits of slot `k` when power returns (R38, R132; log entry 5). -/
opaque Config.powerUpData : (stream t k : Nat) → (held : List (Bool × Byte)) → Byte

end Sys2Proof
end

