-- ==== Sys2Proof/Machine/State.lean ====
section
/-! DEFINITION. The block's state, what its host does to it, the reasons a step can stop, and the state right after
reset (`10_state.md` R20 to R39, `70_reset_and_hazards.md` R147). -/

namespace Sys2Proof.Machine

/-- A pipeline slot `pipe[k]` (R26): `v` is set when the slot holds a response, `d` is the response byte,
meaningful only then. `d` stays in the model while `v = 0`, because the block need not erase it (R36). -/
structure Slot where
  v : Bool
  d : Byte
deriving DecidableEq, Repr

/-- The input ports as sampled at one rising edge of `clk` (R24, R25). Every bit is a defined 0 or 1 (R35; log entry 8). -/
structure PortInputs where
  rst : Bool
  reqValid : Bool
  reqOp : OpCode
  reqA : Byte
  reqB : Byte
deriving DecidableEq, Repr

/-- What the host can do to the block (R147, R132). Reading the outputs changes nothing (R43) and is no move. -/
inductive HostMove where
  /-- A rising edge of `clk` with these inputs presented in the cycle before it. -/
  | edge (p : PortInputs)
  /-- The clock stands still for a while (R132). -/
  | stopClock
  /-- Power is removed and returns (R132, R38). -/
  | powerCycle
deriving DecidableEq, Repr

/-- The state. `pipe` is all the state the spec gives the block (R20 to R23, R26, R36); `host`, `draw` and `stream`
are the model's own: the block's inputs, and the keys of free values. -/
structure State where
  /-- `pipe[0..LAT-1]`, `pipe[0]` first; its length is `LAT` (R26). -/
  pipe : List Slot
  /-- What the host does next, soonest first; the head is what it presents in the present cycle. When the list has run
  out, the host leaves `rst` and `req_valid` at 0 (log entry 6). -/
  host : List HostMove
  /-- Counts edges and power cycles, so that each free value is a fresh one (log entry 7). Nothing reads it but
  the draws: the block has no counter (R128). -/
  draw : Nat
  /-- Which source of free values this part draws from. Parts with different sources draw values that nothing relates
  (log entry 15). It is no identifier the hardware has (R130), and no step changes it. -/
  stream : Nat
deriving DecidableEq, Repr

/-- Why the machine stops with a fault: it never does. "No behaviour of the block is a fault or stuck" (93, R120): the
exception-cause table is empty, and so is this type. -/
inductive Fault where
deriving DecidableEq, Repr

/-- Why a step has no meaning. -/
inductive Refusal where
  /-- Raised by `exec`'s arm of an instruction that has no meaning yet; no arm raises it now. Safe: the model
  stops where the hardware goes on. -/
  | notModelled (mnemonic : String)
deriving DecidableEq, Repr

/-- `n` empty slots from slot `k` on, as reset leaves them: `v = 0`, `d` unspecified (R37). -/
def resetSlots (stream : Nat) : (k n : Nat) → List Slot
  | _, 0 => []
  | k, n + 1 => ⟨false, Config.resetData stream k⟩ :: resetSlots stream (k + 1) n

/-- A part right after an edge with `rst = 1` (R30, R37), drawing from `stream`, the host presenting nothing. -/
def State.resetOn (stream : Nat) : State :=
  { pipe := resetSlots stream 0 Config.LAT, host := [], draw := 0, stream := stream }

/-- The block right after an edge with `rst = 1` (R30, R37), the host presenting nothing. -/
def State.reset : State := State.resetOn 0

/-- The pipeline has a slot, since `LAT >= 1` (R9). -/
def State.wf (s : State) : Bool := 1 ≤ s.pipe.length

end Sys2Proof.Machine
end

