-- ==== Sys2Proof/Machine/Ops.lean ====
section
/-! DEFINITION. The named operations on the state: one per transition of the block (`10_state.md` R29, R30,
`60_exceptions.md` R132), the outputs (R32), and what puts the host's moves into the state.
There is no operation that takes an exception or returns from one, and none on memory: the block has neither
(R120, R124, R125, R40). -/

namespace Sys2Proof.Machine

/-- What a slot says to the model: a response or none (R26). -/
def Slot.view (x : Slot) : Option Byte := if x.v then some x.d else none

/-- All that the slots hold: the valid bit and the data bits of each. -/
def State.held (s : State) : List (Bool × Byte) := s.pipe.map fun x => (x.v, x.d)

/-- All slots move up by one, the last one leaves, `x` enters as `pipe[0]` (R29). -/
def shiftIn (x : Slot) (pipe : List Slot) : List Slot := (x :: pipe).dropLast

/-- Every slot from index `k` on becomes invalid, its data bits drawn (R30). -/
def clearSlots (stream t : Nat) (held : List (Bool × Byte)) : (k : Nat) → List Slot → List Slot
  | _, [] => []
  | k, _ :: rest => ⟨false, Config.staleData stream t k held⟩ :: clearSlots stream t held (k + 1) rest

/-- Every slot from index `k` on holds whatever power-up leaves in it (R38). -/
def powerUpSlots (stream t : Nat) (held : List (Bool × Byte)) : (k : Nat) → List Slot → List Slot
  | _, [] => []
  | k, _ :: rest =>
    ⟨Config.powerUpValid stream t k held, Config.powerUpData stream t k held⟩ :: powerUpSlots stream t held (k + 1) rest

/-- An edge with `rst = 0` at which a command with result `r` is accepted (R29, R33). -/
def acceptEdge (r : Byte) (s : State) : State :=
  { s with pipe := shiftIn ⟨true, r⟩ s.pipe, host := s.host.tail, draw := s.draw + 1 }

/-- An edge with `rst = 0` and `req_valid = 0` (R29, R55). -/
def idleEdge (s : State) : State :=
  { s with
    pipe := shiftIn ⟨false, Config.staleData s.stream s.draw 0 s.held⟩ s.pipe, host := s.host.tail, draw := s.draw + 1 }

/-- An edge with `rst = 1`, whatever the other inputs are (R30, R123, R140). -/
def resetEdge (s : State) : State :=
  { s with pipe := clearSlots s.stream s.draw s.held 0 s.pipe, host := s.host.tail, draw := s.draw + 1 }

/-- The clock stands still: state and outputs hold (R132). -/
def holdClock (s : State) : State := { s with host := s.host.tail }

/-- Power is lost and returns: the power-up state of R38 (R132). `LAT` is fixed when the block is built (R23).
What survives is not specified. DESIGN CHOICE: the new contents are free values that may depend on the valid and
data bits that the slots held, and on nothing from before them (log entry 5). -/
def powerUp (s : State) : State :=
  { s with pipe := powerUpSlots s.stream s.draw s.held 0 s.pipe, host := s.host.tail, draw := s.draw + 1 }

/-- The outcome of every command: it is accepted at this edge and its result enters `pipe[0]` (R29, R120). -/
def answer (r : Byte) (s : State) : Host.Outcome State Fault Refusal := .next (acceptEdge r s)

/-- `pipe[LAT-1]`, the slot the outputs show. -/
def State.lastSlot (s : State) : Option Slot := s.pipe.getLast?

/-- The output `rsp_valid` (R32). -/
def State.rspValid (s : State) : Bool :=
  match s.lastSlot with
  | some x => x.v
  | none => false

/-- The output `rsp_data` (R32): the response, or a draw when there is none. -/
def State.rspData (s : State) : Byte :=
  match s.lastSlot with
  | some x => if x.v then x.d else Config.idleRspData s.stream s.draw s.held
  | none => Config.idleRspData s.stream s.draw s.held

/-- All that a claim may read of the outputs: the response of this cycle, if there is one (R32, R36). -/
def State.response (s : State) : Option Byte := if s.rspValid then some s.rspData else none

/-- Inputs that present nothing: `rst = 0`, `req_valid = 0` (a listing's NOP, R55). -/
def PortInputs.idle : PortInputs := ⟨false, false, 0, 0, 0⟩

/-- Inputs that assert `rst` and present nothing (a listing's RST, R58). -/
def PortInputs.reset : PortInputs := ⟨true, false, 0, 0, 0⟩

/-- Inputs that present the command `{op, a, b}` (R50). -/
def PortInputs.request (op : OpCode) (a b : Byte) : PortInputs := ⟨false, true, op, a, b⟩

/-- The move the host makes in the present cycle (log entry 6). -/
def State.presented (s : State) : HostMove := s.host.headD (.edge .idle)

/-- The host decides on its next move now, having read the outputs (R145). -/
def State.drive (s : State) (m : HostMove) : State := { s with host := m :: s.host }

/-- The host's whole plan from the present cycle on. -/
def State.withPlan (s : State) (moves : List HostMove) : State := { s with host := moves }

end Sys2Proof.Machine
end

