-- ==== Sys2Proof/Machine/Operands.lean ====
section
/-! DEFINITION. Operand assembly and the bit operators of the pseudocode (`30_encoding.md` R53, R56,
`00_scope.md` R13). -/

namespace Sys2Proof.Machine

/-- The element on `req_a`, verbatim (R53; the source's Construct is the byte itself, R56). -/
def PortInputs.elementA (p : PortInputs) : Byte := p.reqA

/-- The element on `req_b`, verbatim (R53). -/
def PortInputs.elementB (p : PortInputs) : Byte := p.reqB

/-- The command word that the request ports carry in one cycle (R50). -/
def PortInputs.word (p : PortInputs) : CommandWord := commandWord p.reqOp p.elementA p.elementB

/-- Inputs that present the command `i` (R50). -/
def PortInputs.command (i : Instr) : PortInputs := .request i.opCode i.operandA i.operandB

/-- `v[i]` (R11). -/
def bit {n : Nat} (v : BitVec n) (i : Nat) : Bool := v.getLsbD i

/-- `rep8(b)`, the mask that is all ones when the bit is set (R13, R85). -/
def rep8 (b : Bool) : Byte := if b then 0xFF else 0x00

/-- The same mask over 15 bits: the `M` of R81. -/
def rep15 (b : Bool) : Product := if b then 0x7FFF else 0x0000

/-- The exclusive-or of the bits of `v` that a row of a bit equation names. -/
def xorOfBits {n : Nat} (v : BitVec n) (row : List Nat) : Bool := row.foldl (fun x i => x ^^ bit v i) false

end Sys2Proof.Machine
end

