-- ==== Sys2Proof/Machine/AddSub.lean ====
section
/-! DEFINITION. The XOR unit and the commands ADD and SUB (`40_add_sub.md`). -/

namespace Sys2Proof.Machine

/-- `ADD(a, b)` (R70). -/
def add8 (a b : Byte) : Byte := a ^^^ b

/-- `SUB(a, b)` (R71): defined as the source defines it, on its own, and equal to ADD (R72). -/
def sub8 (a b : Byte) : Byte := a ^^^ b

/-- ADD (R70): the sum enters `pipe[0]`; no flag, no exception. -/
def execAdd (a b : Byte) (s : State) : Host.Outcome State Fault Refusal := answer (add8 a b) s

/-- SUB (R71): the difference enters `pipe[0]`; no flag, no exception. -/
def execSub (a b : Byte) (s : State) : Host.Outcome State Fault Refusal := answer (sub8 a b) s

end Sys2Proof.Machine
end

