-- ==== Sys2Proof/Machine/Multiply.lean ====
section
/-! DEFINITION. The carry-less multiplier, the reducer, the command MUL, and the reference algorithms that the spec
holds beside it (`41_multiply.md`). No table is consulted (R88): `foldConstants` is the wiring of R81. -/

namespace Sys2Proof.Machine

/-- `CLMUL8(a, b)` (R80): one masked, shifted copy of `a` for each bit of `b`. -/
def clmul8 (a b : Byte) : Product :=
  [0, 1, 2, 3, 4, 5, 6, 7].foldl (fun p i => p ^^^ ((a &&& rep8 (bit b i)).setWidth 15 <<< i)) 0

/-- `p[k]` of R80's bit equations: the exclusive-or of `a[i] & b[k-i]` over `0 <= i <= 7`, `0 <= k-i <= 7`. -/
def clmulBit (a b : Byte) (k : Nat) : Bool :=
  [0, 1, 2, 3, 4, 5, 6, 7].foldl (fun x i => x ^^ (decide (i ≤ k ∧ k - i ≤ 7) && bit a i && bit b (k - i))) false

/-- One step of `RED15` (R81): a set bit `k` is cleared by a shifted copy of `0x11B`, mask-driven (R85). -/
def reduceBit (p : Product) (k : Nat) : Product := p ^^^ ((0x11B <<< (k - 8)) &&& rep15 (bit p k))

/-- `RED15(p)` (R81): the remainder modulo `0x11B`. -/
def red15 (p : Product) : Byte := ([14, 13, 12, 11, 10, 9, 8].foldl reduceBit p).setWidth 8

/-- `C_k = x^k mod p(x)` for k = 8..14 (R81). -/
def foldConstants : List (Nat × Byte) :=
  [(8, 0x1B), (9, 0x36), (10, 0x6C), (11, 0xD8), (12, 0xAB), (13, 0x4D), (14, 0x9A)]

/-- R81's second form of the reducer: the constants `C_k` under masks. -/
def red15Folded (p : Product) : Byte :=
  foldConstants.foldl (fun r c => r ^^^ (c.2 &&& rep8 (bit p c.1))) (p.setWidth 8)

/-- R81's bit equations: row `i` lists the bits of `p` whose exclusive-or is `r[i]`. -/
def red15Rows : List (List Nat) :=
  [[0, 8, 12, 13], [1, 8, 9, 12, 14], [2, 9, 10, 13], [3, 8, 10, 11, 12, 13, 14], [4, 8, 9, 11, 14], [5, 9, 10, 12],
   [6, 10, 11, 13], [7, 11, 12, 14]]

/-- `MUL(a, b) = RED15(CLMUL8(a, b))` (R82). -/
def mul8 (a b : Byte) : Byte := red15 (clmul8 a b)

/-- `xtime(x)` (R84): the shifted value is truncated to 8 bits, and bit 7 is tested before the shift. -/
def xtime (x : Byte) : Byte := (x <<< 1) ^^^ (0x1B &&& rep8 (bit x 7))

/-- `acc` and `x` of the reference algorithm after its first `n` iterations (R83: accumulate, then shift). -/
def mulRefAfter (a b : Byte) : (n : Nat) → Byte × Byte
  | 0 => (0x00, a)
  | n + 1 =>
    let r := mulRefAfter a b n
    (r.1 ^^^ (r.2 &&& rep8 (bit b n)), xtime r.2)

/-- `MUL_ref(a, b)`: exactly 8 iterations (R83, R87). -/
def mulRef (a b : Byte) : Byte := (mulRefAfter a b 8).1

/-- The most-significant-bit-first (Horner) order, which shifts the accumulator (R86). -/
def mulHorner (a b : Byte) : Byte :=
  [7, 6, 5, 4, 3, 2, 1, 0].foldl (fun acc i => xtime acc ^^^ (a &&& rep8 (bit b i))) 0x00

/-- The combination that does NOT conform (R86, 90 C1): least significant bit first, with the shift before the
accumulate. No meaning uses it. -/
def mulShiftFirst (a b : Byte) : Byte :=
  ([0, 1, 2, 3, 4, 5, 6, 7].foldl (fun (r : Byte × Byte) i => (r.1 ^^^ (xtime r.2 &&& rep8 (bit b i)), xtime r.2))
    (0x00, a)).1

/-- The k-fold field product of `a` (R14): `a^0 = 0x01`, `a^1 = a`. -/
def pow8 (a : Byte) : (k : Nat) → Byte
  | 0 => 0x01
  | k + 1 => mul8 (pow8 a k) a

/-- MUL (R82): the reduced product enters `pipe[0]`; no flag, no exception. -/
def execMul (a b : Byte) (s : State) : Host.Outcome State Fault Refusal := answer (mul8 a b) s

end Sys2Proof.Machine
end

