-- ==== Sys2Proof/Machine/Inverse.lean ====
section
/-! DEFINITION. The squarer, the Fermat-chain inverter, the command INV, and the chains that conform
(`42_inverse.md`). -/

namespace Sys2Proof.Machine

/-- `SQR(a) = MUL(a, a)` (R100). -/
def sqr8 (a : Byte) : Byte := mul8 a a

/-- R100's squarer network: row `i` lists the bits of `a` whose exclusive-or is `s[i]`. -/
def sqrRows : List (List Nat) :=
  [[0, 4, 6], [4, 6, 7], [1, 5], [4, 5, 6, 7], [2, 4, 7], [5, 6], [3, 5], [6, 7]]

/-- The repeated pair of steps of the reference chain, `n` times: `e -> 2e -> 2e+1` (R103). -/
def invRounds (a : Byte) : (n : Nat) → Byte
  | 0 => a
  | n + 1 => mul8 (sqr8 (invRounds a n)) a

/-- `INV(a)`, computed by the reference chain of R103: 7 squarings and 6 multiplications, the same for every `a`
(R105), with no special case for zero (R102). -/
def inv8 (a : Byte) : Byte := sqr8 (invRounds a 6)

/-- The values of `r` in the reference chain, in order, one per entry of `chainExponents` (R103). -/
def invTrace (a : Byte) : List Byte :=
  [a, sqr8 a, invRounds a 1, sqr8 (invRounds a 1), invRounds a 2, sqr8 (invRounds a 2), invRounds a 3,
   sqr8 (invRounds a 3), invRounds a 4, sqr8 (invRounds a 4), invRounds a 5, sqr8 (invRounds a 5), invRounds a 6, inv8 a]

/-- The exponents of `r` after each step of the reference chain (R103). -/
def chainExponents : List Nat := [1, 2, 3, 6, 7, 14, 15, 30, 31, 62, 63, 126, 127, 254]

/-- A fixed chain of SQR and MUL steps that starts from `a` (R104). -/
inductive Chain where
  | start
  | sqr (c : Chain)
  | mul (c d : Chain)
deriving DecidableEq, Repr

/-- The exponent a chain reaches. -/
def Chain.exponent : Chain → Nat
  | .start => 1
  | .sqr c => 2 * c.exponent
  | .mul c d => c.exponent + d.exponent

/-- What a chain computes from `a`. -/
def Chain.value (a : Byte) : Chain → Byte
  | .start => a
  | .sqr c => sqr8 (c.value a)
  | .mul c d => mul8 (c.value a) (d.value a)

/-- INV (R101): `a^254` enters `pipe[0]`; `b` is not read (R34); no flag, no exception, zero included (R102). -/
def execInv (a : Byte) (s : State) : Host.Outcome State Fault Refusal := answer (inv8 a) s

end Sys2Proof.Machine
end

