-- ==== Sys2Proof/Machine/Step.lean ====
section
/-! DEFINITION. One step: the host's next move, and what the block makes of it (`10_state.md` R29, R30,
`60_exceptions.md` R132). -/

namespace Sys2Proof.Machine

/-- One move of the host. At an edge, reset wins over a command (R123); a presented command is decoded and executed;
an edge with neither moves the pipeline on (R29, R55). -/
def step (s : State) : Host.Outcome State Fault Refusal :=
  match s.presented with
  | .edge p =>
    if p.rst then .next (resetEdge s)
    else if p.reqValid then exec (decode p.word) s
    else .next (idleEdge s)
  | .stopClock => .next (holdClock s)
  | .powerCycle => .next (powerUp s)

/-- The host presents the table word `w` in the present cycle, with `rst = 0` and `req_valid = 1`; the block fetches
nothing (R21; log entry 9). A number that is no command word is not presented. -/
def State.withFetchWord (s : State) (nbits w : Nat) : State :=
  match decodeTableWord nbits w with
  | some i => s.drive (.edge (.command i))
  | none => s

end Sys2Proof.Machine
end

