-- ==== Sys2Proof/Machine/Flags.lean ====
section
/-! DEFINITION. Flags: the block has none (`10_state.md` R22). "No operation sets or reads a status flag, a carry, an
overflow bit or a condition code." -/

namespace Sys2Proof.Machine

/-- The block's flags: a type with no member (R22). -/
inductive Flag where
deriving DecidableEq, Repr

/-- The flags a command writes: none (R70, R71, R82, R101: "Flags written: none"). -/
def flagsWritten : Instr → List Flag
  | .add _ _ => []
  | .sub _ _ => []
  | .mul _ _ => []
  | .inv _ _ => []

end Sys2Proof.Machine
end

