-- ==== Sys2Proof/Machine/Instances.lean ====
section
/-! DEFINITION. Several instances side by side (`10_state.md` R39, `60_exceptions.md` R130): each has a state of its own,
they share nothing and are not ordered, so a bank is a list of states and a move steps one of them. -/

namespace Sys2Proof.Machine

/-- `n` parts right after reset, each drawing from a source of its own. DESIGN CHOICE: the spec leaves open whether
instances draw their unspecified values independently (R39, R130; log entry 15). Here nothing relates the draws of two
parts whose `stream` differs; two states with the same `stream`, `draw` and slots draw alike. -/
def resetBank (n : Nat) : List State := (List.range n).map State.resetOn

/-- Instance `k` makes a step; where there is no such instance nothing happens. Its draws are those of its own
`stream` (DESIGN CHOICE, log entry 15). -/
def stepInstance (k : Nat) (bank : List State) : Host.Outcome (List State) Fault Refusal :=
  match bank[k]? with
  | none => .next bank
  | some s =>
    match step s with
    | .next t => .next (bank.set k t)
    | .fault r => .fault r
    | .refused r => .refused r

end Sys2Proof.Machine
end

