-- ==== Sys2Proof/Machine/Listing.lean ====
section
/-! DEFINITION. Listings: the pseudo-instructions and the lines of a program, as the host presents them
(`30_encoding.md` R58, R59). -/

namespace Sys2Proof.Machine

/-- The pseudo-instructions of R59. -/
inductive Pseudo where
  | sqr (a : Byte)
  | xtime (a : Byte)
  | pass (a : Byte)
  | zero
  | one
deriving DecidableEq, Repr

/-- The one command a pseudo-instruction expands to (R59); `INV a` drives `b = 0x00` (R58). -/
def Pseudo.expand : Pseudo → Instr
  | .sqr a => .mul a a
  | .xtime a => .mul a 0x02
  | .pass a => .add a 0x00
  | .zero => .add 0x00 0x00
  | .one => .inv 0x01 0x00

/-- An operand of a listing line: a literal, or `r@m`, the response byte the host read in cycle `m` (R58). -/
inductive Operand where
  | literal (b : Byte)
  | response (m : Nat)
deriving DecidableEq, Repr

/-- A line of a listing: what is presented in one cycle (R58). -/
inductive Line where
  | add (x y : Operand)
  | sub (x y : Operand)
  | mul (x y : Operand)
  | inv (x : Operand)
  | pseudo (p : Pseudo)
  | nop
  | rst
deriving DecidableEq, Repr

/-- The byte an operand stands for, given the responses the host has read so far by cycle; none while there is no
such response yet, because the block forwards nothing (R145). -/
def Operand.byte (read : List (Nat × Byte)) : Operand → Option Byte
  | .literal b => some b
  | .response m => read.lookup m

/-- Both operands of a line. -/
def bothBytes (read : List (Nat × Byte)) (x y : Operand) (f : Byte → Byte → Instr) : Option Instr :=
  match x.byte read, y.byte read with
  | some a, some b => some (f a b)
  | _, _ => none

/-- The ports during the cycle of a line (R58); none when an operand has not been read yet. -/
def Line.inputs (read : List (Nat × Byte)) : Line → Option PortInputs
  | .add x y => (bothBytes read x y .add).map .command
  | .sub x y => (bothBytes read x y .sub).map .command
  | .mul x y => (bothBytes read x y .mul).map .command
  | .inv x => (x.byte read).map fun a => .command (.inv a 0x00)
  | .pseudo p => some (.command p.expand)
  | .nop => some .idle
  | .rst => some .reset

/-- The host reads the outputs in cycle `n`: it keeps the response, if there is one (R146). -/
def State.capture (s : State) (n : Nat) (read : List (Nat × Byte)) : List (Nat × Byte) :=
  match s.response with
  | some b => (n, b) :: read
  | none => read

end Sys2Proof.Machine
end

