-- ==== Sys2Proof/Machine/CoreFunction.lean ====
section
/-! DEFINITION. The core function `F(op, a, b)` (`10_state.md` R28, `30_encoding.md` R52). -/

namespace Sys2Proof.Machine

/-- `F(op, a, b)` (R52); the last arm is `0b11`, where `b` is unused. -/
def coreF (op : OpCode) (a b : Byte) : Byte :=
  if op = 0b00 then add8 a b
  else if op = 0b01 then sub8 a b
  else if op = 0b10 then mul8 a b
  else inv8 a

/-- The result of a command, whichever it is. -/
def result : Instr → Byte
  | .add a b => add8 a b
  | .sub a b => sub8 a b
  | .mul a b => mul8 a b
  | .inv a _ => inv8 a

end Sys2Proof.Machine
end

