-- ==== Sys2Proof/Safety.lean ====
section
/-! DEFINITION. The terms claims use: runs over a sequence of sampled inputs, what a slot should hold given the inputs
sampled so far, what an observer of control alone sees, and when an implementation conforms. -/

namespace Sys2Proof.Safety

open Sys2Proof.Machine

/-- The state in cycle `m`, the host presenting `ins` from the present cycle on (R16). -/
def atCycle (s : State) (ins : List PortInputs) (m : Nat) : Host.Outcome State Fault Refusal :=
  Host.Core.run core m (s.withPlan (ins.map .edge))

/-- The response that inputs sampled without reset give rise to (R33). -/
def requested (p : PortInputs) : Option Byte := if p.reqValid then some (coreF p.reqOp p.reqA p.reqB) else none

/-- What slot `k` holds, given the inputs sampled so far, latest first: the response of the command accepted `k+1`
edges ago, unless that edge or a later one sampled a reset (R26, R30). -/
def expectedSlot (hist : List PortInputs) (k : Nat) : Option Byte :=
  if (hist.take (k + 1)).any PortInputs.rst then none else hist[k]?.bind requested

/-- Every slot that the inputs sampled so far determine holds what they say: slot `k` is determined once `k+1` edges
have been sampled, and every slot is once a reset has been (R30). -/
def Tracks (hist : List PortInputs) (s : State) : Prop :=
  ∀ k x, s.pipe[k]? = some x → k < hist.length ∨ hist.any PortInputs.rst = true → x.view = expectedSlot hist k

/-- The inputs sampled so far, after one more move of the host; a power cycle forgets them (R38). -/
def historyAfter (m : HostMove) (hist : List PortInputs) : List PortInputs :=
  match m with
  | .edge p => p :: hist
  | .stopClock => hist
  | .powerCycle => []

/-- The command `i` completes in `s` with result `r`: `exec` answers a next state whose `pipe[0]` is the response
`r` and whose other slots are the old ones moved up by one (R29, R120). -/
def CompletesWith (i : Instr) (r : Byte) (s : State) : Prop :=
  ∃ t, exec i s = .next t ∧
    t.pipe.length = s.pipe.length ∧
    (1 ≤ s.pipe.length → t.pipe[0]? = some ⟨true, r⟩) ∧
    ∀ k, k + 1 < s.pipe.length → t.pipe[k + 1]? = s.pipe[k]?

/-- The inputs sampled at the `n` edges after cycle `from_` of a sequence. -/
def window (ins : List PortInputs) (from_ n : Nat) : List PortInputs := (ins.drop from_).take n

/-- Two samples that agree on `rst` and `req_valid` (R148). -/
def SameControl (p q : PortInputs) : Prop := p.rst = q.rst ∧ p.reqValid = q.reqValid

/-- The valid bits of the pipeline. -/
def validBits (s : State) : List Bool := s.pipe.map Slot.v

/-- An implementation of the ports: its own registers, moved on at every edge, and outputs that are functions of
them alone (R25, R27). -/
structure Impl where
  Regs : Type
  next : Regs → PortInputs → Regs
  rspValid : Regs → Bool
  rspData : Regs → Byte

/-- An implementation's registers after a sequence of edges. -/
def Impl.after (I : Impl) (r : I.Regs) (ins : List PortInputs) : I.Regs := ins.foldl I.next r

/-- In cycle `m` of the input sequence `ins`, the implementation, powered up with registers `r`, and the block, powered up
as `s`, agree at the ports: on `rsp_valid`, and on `rsp_data` where it is a response (R32). -/
def PortsAgree (I : Impl) (r : I.Regs) (s : State) (ins : List PortInputs) (m : Nat) : Prop :=
  ∃ t, atCycle s ins m = .next t ∧ I.rspValid (I.after r (ins.take m)) = t.rspValid ∧
    (t.rspValid = true → I.rspData (I.after r (ins.take m)) = t.rspData)

/-- Conformance at latency `lat` (R27): for EVERY input sequence, with a reset in it or none, and whatever registers power
leaves in the implementation, its port behaviour in every cycle is one that R29 to R32 give, from some power-up
contents of the `lat` slots (R38). -/
def Conforms (lat : Nat) (I : Impl) : Prop :=
  ∀ (r : I.Regs) (ins : List PortInputs), ∃ s : State, s.pipe.length = lat ∧ ∀ m ≤ ins.length, PortsAgree I r s ins m

/-- An implementation with other registers than `pipe`: it holds the commands in flight and computes a result
only in its last stage. -/
def lateCompute (lat : Nat) : Impl where
  Regs := List (Option Instr)
  next := fun r p =>
    if p.rst then List.replicate lat none
    else ((if p.reqValid then some (decode p.word) else none) :: r).take lat
  rspValid := fun r => (r[lat - 1]?.join).isSome
  rspData := fun r => match r[lat - 1]?.join with
    | some i => result i
    | none => 0x00

/-- A part that is dead until its first reset and like `lateCompute` from then on. It does not conform: without any reset
its outputs are fixed from cycle `lat` on (R29, R32, R151). -/
def deadUntilReset (lat : Nat) : Impl where
  Regs := Bool × List (Option Instr)
  next := fun r p => (r.1 || p.rst, (lateCompute lat).next r.2 p)
  rspValid := fun r => r.1 && (lateCompute lat).rspValid r.2
  rspData := fun r => (lateCompute lat).rspData r.2

end Sys2Proof.Safety
end

