-- ==== Sys2Proof/Certificates/Slice0/Obligations.lean ====
section
/-! DEFINITION. The statements for the provers. `LAT` is the length of the pipeline in front of a statement, so each
statement about all states is one for every `LAT >= 1` (`00_scope.md` R9). -/

open Sys2Proof Sys2Proof.Machine Sys2Proof.Safety

/-- The polynomial over GF(2) that a bit vector stands for: bit `i` is the coefficient of `x^i` (R12). -/
noncomputable def Sys2Proof.polyOf {n : Nat} (v : BitVec n) : Polynomial (ZMod 2) :=
  ∑ i ∈ Finset.range n, if v.getLsbD i then (Polynomial.X : Polynomial (ZMod 2)) ^ i else 0

/-- The reducing polynomial p(x) = x^8 + x^4 + x^3 + x + 1 (R2). -/
noncomputable def Sys2Proof.reducingPoly : Polynomial (ZMod 2) :=
  Polynomial.X ^ 8 + Polynomial.X ^ 4 + Polynomial.X ^ 3 + Polynomial.X + 1

/-- A step at which a command is accepted IS `exec` of the decoded command: the step adds nothing around it
(R29, R33, R52). -/
def Obligations.StepRunsTheDecodedCommand : Prop :=
  ∀ (s : State) (p : PortInputs) (i : Instr),
    s.presented = .edge p → p.rst = false → p.reqValid = true → decode p.word = i → i.wellFormed = true →
      step s = exec i s

/-- The words of `95_test_vectors.md` sections 1, 2.5 and 2.6 decode to the commands they stand for. -/
def Obligations.DecodesTheSpecsWords : Prop :=
  decode 0x0050C = .add 0x05 0x0C ∧ decode 0x120DB = .sub 0x20 0xDB ∧ decode 0x2AF2F = .mul 0xAF 0x2F ∧
    decode 0x36E00 = .inv 0x6E 0x00 ∧ decode 0x353FF = .inv 0x53 0xFF ∧ decode 0x1FFFF = .sub 0xFF 0xFF ∧
    decode 0x00000 = .add 0x00 0x00 ∧ decode 0x30001 = .inv 0x00 0x01

/-- Every command, with every operand byte, is read back from its word (R50, R51, R53). -/
def Obligations.DecodeOfEncodeIsTheCommand : Prop :=
  ∀ i : Instr, i.wellFormed = true →
    decode (encode i) = i ∧ decodeTableWord 18 (encode i).toNat = some i ∧ (PortInputs.command i).word = encode i

/-- Every word is the word of the command it decodes to, the don't-care field of INV included (R50, R54). -/
def Obligations.EncodeOfDecodeIsTheWord : Prop :=
  ∀ c : CommandWord, encode (decode c) = c ∧ (decode c).wellFormed = true

/-- The four rows of the opcode table partition the words, and the matching row names the decoded command
(`30_encoding.md` section 6, R54). -/
def Obligations.EveryWordMatchesExactlyOneRow : Prop :=
  ∀ c : CommandWord, ∃ r, opcodeTable.filter (fun row => row.holds c) = [r] ∧ r.mnemonic = (decode c).mnemonic

/-- R54: each of the `2^18` words is a valid command that runs in every state, and `CMD[7:0]` of an INV word
has no effect. -/
def Obligations.EveryCommandWordRuns : Prop :=
  (∀ (w : Nat) (s : State), w < 2 ^ 18 →
    ∃ i t, decodeTableWord 18 w = some i ∧ step (s.withFetchWord 18 w) = .next t ∧ t.pipe.length = s.pipe.length ∧
      (1 ≤ s.pipe.length → t.pipe[0]? = some ⟨true, result i⟩)) ∧
  ∀ (a b b' : Byte) (s : State), exec (decode (commandWord 0b11 a b)) s = exec (decode (commandWord 0b11 a b')) s

/-- R52: the command `{op, a, b}` runs to the result that `op` selects, for all four values of `op`. -/
def Obligations.CoreFunctionSelectedByOpcode : Prop :=
  ∀ (a b : Byte) (s : State),
    CompletesWith (decode (commandWord 0b00 a b)) (add8 a b) s ∧
    CompletesWith (decode (commandWord 0b01 a b)) (sub8 a b) s ∧
    CompletesWith (decode (commandWord 0b10 a b)) (mul8 a b) s ∧
    CompletesWith (decode (commandWord 0b11 a b)) (inv8 a) s ∧
    ∀ op : OpCode, CompletesWith (decode (commandWord op a b)) (coreF op a b) s

/-- R70: encoding, result, corner cases and worked example of ADD; it completes on all pairs, in every state. -/
def Obligations.AddIsBitwiseXor : Prop :=
  ∀ (a b : Byte) (s : State),
    decode (commandWord 0b00 a b) = .add a b ∧ flagsWritten (.add a b) = [] ∧
    CompletesWith (.add a a) 0x00 s ∧ CompletesWith (.add a 0x00) a s ∧
    CompletesWith (.add 0xFF 0xFF) 0x00 s ∧ CompletesWith (.add 0xFF 0x00) 0xFF s ∧ CompletesWith (.add 5 12) 9 s ∧
    CompletesWith (.add a b) (a ^^^ b) s ∧ ∀ i < 8, (add8 a b).getLsbD i = (a.getLsbD i ^^ b.getLsbD i)

/-- R71: encoding, result, corner cases and worked example of SUB; it completes on all pairs, in every state. -/
def Obligations.SubIsBitwiseXor : Prop :=
  ∀ (a b : Byte) (s : State),
    decode (commandWord 0b01 a b) = .sub a b ∧ flagsWritten (.sub a b) = [] ∧
    CompletesWith (.sub a a) 0x00 s ∧ CompletesWith (.sub a 0x00) a s ∧ CompletesWith (.sub 0x00 b) b s ∧
    CompletesWith (.sub 0xFF 0xFF) 0x00 s ∧ CompletesWith (.sub 0xFF 0x00) 0xFF s ∧ CompletesWith (.sub 32 219) 251 s ∧
    sub8 a b = sub8 b a ∧ CompletesWith (.sub a b) (a ^^^ b) s ∧
    ∀ i < 8, (sub8 a b).getLsbD i = (a.getLsbD i ^^ b.getLsbD i)

/-- R72: SUB does what ADD does, under an operation code of its own. -/
def Obligations.SubEqualsAddUnderItsOwnCode : Prop :=
  ∀ (a b : Byte), (∀ s : State, exec (.sub a b) s = exec (.add a b) s) ∧ sub8 a b = add8 a b ∧
    ∀ a' b' : Byte, encode (.sub a b) ≠ encode (.add a' b') ∧ decode (encode (.sub a b)) ≠ .add a' b'

/-- R82: encoding, result, corner cases and worked example of MUL; it completes on all pairs, in every state. -/
def Obligations.MulIsReducedCarrylessProduct : Prop :=
  ∀ (a b : Byte) (s : State),
    decode (commandWord 0b10 a b) = .mul a b ∧ flagsWritten (.mul a b) = [] ∧
    CompletesWith (.mul a 0x00) 0x00 s ∧ CompletesWith (.mul 0x00 a) 0x00 s ∧ CompletesWith (.mul a 0x01) a s ∧
    CompletesWith (.mul 0x80 0x02) 0x1B s ∧ clmul8 0xFF 0xFF = 0x5555 ∧ CompletesWith (.mul 0xFF 0xFF) 0x13 s ∧
    CompletesWith (.mul a a) (sqr8 a) s ∧ clmul8 175 47 = 0x13D5 ∧ CompletesWith (.mul 175 47) 83 s ∧
    CompletesWith (.mul a b) (red15 (clmul8 a b)) s

/-- R101: encoding, result, corner cases and worked example of INV; it completes on every operand, in every state. -/
def Obligations.InvIsPower254 : Prop :=
  ∀ (a b b' : Byte) (s : State),
    decode (commandWord 0b11 a b) = .inv a b ∧ flagsWritten (.inv a b) = [] ∧
    CompletesWith (.inv 0x00 b) 0x00 s ∧ CompletesWith (.inv 0x01 b) 0x01 s ∧ CompletesWith (.inv 0x02 b) 0x8D s ∧
    CompletesWith (.inv 0xFF b) 0x1C s ∧ CompletesWith (.inv (inv8 a) b) a s ∧ exec (.inv a b) s = exec (.inv a b') s ∧
    CompletesWith (.inv 110 b) 33 s ∧ mul8 110 33 = 1 ∧ CompletesWith (.inv a b) (pow8 a 254) s

/-- R73, R74, R75: zero is the identity, every element is its own additive inverse, the operation is commutative and
associative; and the reason: ADD is the addition of polynomials over GF(2) (R12). -/
def Obligations.AddIsPolynomialAddition : Prop :=
  ∀ a b c : Byte,
    (add8 a 0x00 = a ∧ add8 0x00 a = a) ∧ add8 a a = 0x00 ∧ add8 a b = add8 b a ∧
    add8 (add8 a b) c = add8 a (add8 b c) ∧ polyOf (add8 a b) = polyOf a + polyOf b

/-- R80: the bit equations of the carry-less product, its commutativity, and that it is the product of the polynomials. -/
def Obligations.ClmulIsPolynomialProduct : Prop :=
  ∀ a b : Byte,
    (∀ k < 15, (clmul8 a b).getLsbD k = clmulBit a b k) ∧ clmul8 a b = clmul8 b a ∧
    polyOf (clmul8 a b) = polyOf a * polyOf b

/-- R81: the reducer gives the remainder on division by p(x), and its other two forms agree with it. -/
def Obligations.Red15IsPolynomialRemainder : Prop :=
  (∀ p : Product,
    polyOf (red15 p) = polyOf p %ₘ reducingPoly ∧ red15 p = red15Folded p ∧
    ∀ i < 8, (red15 p).getLsbD i = xorOfBits p (red15Rows.getD i [])) ∧
  ∀ c ∈ foldConstants, polyOf c.2 = Polynomial.X ^ c.1 %ₘ reducingPoly

/-- MUL is multiplication in GF(2)[x] modulo p(x) (R2, R12, R82). -/
def Obligations.MulIsPolynomialProductModP : Prop :=
  ∀ (a b : Byte) (s : State),
    ∃ r, CompletesWith (.mul a b) r s ∧ polyOf r = (polyOf a * polyOf b) %ₘ reducingPoly

/-- R83: the reference algorithm computes MUL, and before step (2) of iteration `i` its `x` is `a ⊗ x^i`. -/
def Obligations.MulReferenceAgrees : Prop :=
  ∀ a b : Byte, mulRef a b = mul8 a b ∧ ∀ i < 8, (mulRefAfter a b i).2 = mul8 a (pow8 0x02 i)

/-- R84: xtime is the shifted value truncated to 8 bits, with `0x1B` under the mask of the old bit 7; it equals
the 9-bit shifted value XOR-ed with `0x11B`, and multiplication by `0x02`. -/
def Obligations.XtimeMultipliesByX : Prop :=
  ∀ x : Byte,
    xtime x = ((x <<< 1) &&& 0xFF) ^^^ (if x.getLsbD 7 then 0x1B else 0x00) ∧
    (xtime x).setWidth 9 = ((x.setWidth 9 <<< 1) ^^^ (if x.getLsbD 7 then (0x11B : BitVec 9) else 0)) ∧
    xtime x = mul8 x 0x02 ∧ polyOf (xtime x) = (polyOf x * Polynomial.X) %ₘ reducingPoly

/-- Both orders that R86 admits compute MUL; the combination it refuses computes `a ⊗ b ⊗ 0x02` (90 C1). -/
def Obligations.MulOrdersThatConform : Prop :=
  (∀ a b : Byte, mulHorner a b = mul8 a b ∧ mulRef a b = mul8 a b ∧ mulShiftFirst a b = mul8 (mul8 a b) 0x02) ∧
  mulShiftFirst 0x01 0x01 ≠ mul8 0x01 0x01

/-- R89: the required algebraic properties of multiplication. -/
def Obligations.MulFieldLaws : Prop :=
  ∀ a b c : Byte,
    mul8 a 0x01 = a ∧ mul8 a b = mul8 b a ∧ mul8 (mul8 a b) c = mul8 a (mul8 b c) ∧
    mul8 a (add8 b c) = add8 (mul8 a b) (mul8 a c)

/-- R92: the nonzero elements form a cyclic group of order 255, generated by 0x03 and not by 0x02. -/
def Obligations.NonzeroElementsFormCyclicGroup : Prop :=
  (∀ a b : Byte, a ≠ 0 → b ≠ 0 → mul8 a b ≠ 0) ∧
  (∀ a : Byte, a ≠ 0 → pow8 a 255 = 0x01 ∧ pow8 a 254 ≠ 0 ∧ mul8 a (pow8 a 254) = 0x01 ∧ ∃ k < 255, pow8 0x03 k = a) ∧
  (pow8 0x03 255 = 0x01 ∧ ∀ k, 0 < k → k < 255 → pow8 0x03 k ≠ 0x01) ∧
  (pow8 0x02 51 = 0x01 ∧ ∀ k, 0 < k → k < 51 → pow8 0x02 k ≠ 0x01)

/-- R100: squaring is linear, the squarer network computes it, and the squares of the basis elements are as listed. -/
def Obligations.SquarerIsLinearNetwork : Prop :=
  (∀ a b : Byte, sqr8 a = mul8 a a ∧ sqr8 (a ^^^ b) = sqr8 a ^^^ sqr8 b ∧
    ∀ i < 8, (sqr8 a).getLsbD i = xorOfBits a (sqrRows.getD i [])) ∧
  [0, 1, 2, 3, 4, 5, 6, 7].map (fun i => sqr8 (pow8 0x02 i)) = [0x01, 0x04, 0x10, 0x40, 0x1B, 0x6C, 0xAB, 0x9A]

/-- R103: after each step the reference chain holds the power of `a` with the listed exponent; its last value is INV. -/
def Obligations.ReferenceChainPowers : Prop :=
  ∀ a : Byte,
    invTrace a = chainExponents.map (pow8 a) ∧ (invTrace a).getLast? = some (inv8 a) ∧ inv8 a = pow8 a 254 ∧
    inv8 0x00 = 0x00

/-- R104: every fixed chain of SQR and MUL steps whose exponent reaches 254 computes INV, and every chain gives 0x00
for 0x00. -/
def Obligations.AnyChainTo254Inverts : Prop :=
  ∀ (c : Chain), (∀ a : Byte, c.exponent = 254 → c.value a = inv8 a) ∧ c.value 0x00 = 0x00

/-- R106: `MUL(a, INV(a)) = 0x01` for every nonzero `a`, and `INV(0x00) = 0x00`. -/
def Obligations.InverseCorrect : Prop :=
  ∀ (a b : Byte) (s : State),
    ∃ r, CompletesWith (.inv a b) r s ∧ (a ≠ 0 → mul8 a r = 0x01) ∧ (a = 0 → r = 0x00) ∧ (a = 1 → r = 0x01)

/-- R107: inversion is an involution and multiplicative, zero included. -/
def Obligations.InverseInvolutiveMultiplicative : Prop :=
  ∀ a b : Byte, inv8 (inv8 a) = a ∧ inv8 (mul8 a b) = mul8 (inv8 a) (inv8 b)

/-- The frame of ADD, SUB, MUL and INV: a command writes `pipe[0]` and nothing else; every other slot is the slot
below it before, `LAT` stays, and of the model's own fields the host has made one move, one draw index is
used up and the source of draws stays (R29; log entries 6, 7, 15). There is no other state (R20 to R23, R40). -/
def Obligations.FrameOfEveryCommand : Prop :=
  ∀ (i : Instr) (s t : State), exec i s = .next t →
    t.pipe.length = s.pipe.length ∧ (∀ k, k + 1 < s.pipe.length → t.pipe[k + 1]? = s.pipe[k]?) ∧
    t.host = s.host.tail ∧ t.draw = s.draw + 1 ∧ t.stream = s.stream

/-- No command and no move of the host ends in a fault or a refusal, in any state (R120, R121, R133). -/
def Obligations.EveryStepAnswersNext : Prop :=
  (∀ (i : Instr) (s : State), ∃ t, exec i s = .next t) ∧ ∀ s : State, ∃ t, step s = .next t

/-- R29: what an edge without reset does to every slot. -/
def Obligations.EdgeWithoutReset : Prop :=
  ∀ (s : State) (p : PortInputs), s.presented = .edge p → p.rst = false →
    ∃ t, step s = .next t ∧ t.pipe.length = s.pipe.length ∧
      (∀ k, 1 ≤ k → k < s.pipe.length → t.pipe[k]? = s.pipe[k - 1]?) ∧
      (1 ≤ s.pipe.length → ∃ x, t.pipe[0]? = some x ∧ x.v = p.reqValid ∧
        (p.reqValid = true → x.d = coreF p.reqOp p.reqA p.reqB))

/-- R30, R37: an edge with reset clears every slot, whatever the other inputs are; a command presented with it is not
accepted, and no response is shown. -/
def Obligations.EdgeWithReset : Prop :=
  ∀ (s : State) (p : PortInputs), s.presented = .edge p → p.rst = true →
    ∃ t, step s = .next t ∧ t.pipe.length = s.pipe.length ∧ (∀ x ∈ t.pipe, x.v = false) ∧
      t.rspValid = false

/-- R34: the request fields of an idle edge have no effect, and `req_b` of an INV command has none. -/
def Obligations.IgnoredInputs : Prop :=
  (∀ (s : State) (op op' : OpCode) (a a' b b' : Byte) (rest : List HostMove),
    step (s.withPlan (.edge ⟨false, false, op, a, b⟩ :: rest)) = step (s.withPlan (.edge ⟨false, false, op', a', b'⟩ :: rest))) ∧
  ∀ (s : State) (r v : Bool) (a b b' : Byte) (rest : List HostMove),
    step (s.withPlan (.edge ⟨r, v, 0b11, a, b⟩ :: rest)) = step (s.withPlan (.edge ⟨r, v, 0b11, a, b'⟩ :: rest))

/-- What reset leaves: `LAT` slots, none valid, no response on the outputs (R26, R37). -/
def Obligations.ResetStateHoldsNoResponse : Prop :=
  State.reset.pipe.length = Config.LAT ∧ 1 ≤ Config.LAT ∧ (∀ x ∈ State.reset.pipe, x.v = false) ∧
    State.reset.rspValid = false ∧ State.reset.response = none

/-- The two invariants below hold at reset, of whichever source of draws (log entry 15): there is a slot, and EVERY slot
is what sampled reset edges make it, one of them or more (R30). -/
def Obligations.InvariantsHoldAtReset : Prop :=
  State.reset = State.resetOn 0 ∧
  ∀ stream : Nat, (State.resetOn stream).wf = true ∧
    (∀ x ∈ (State.resetOn stream).pipe, x.view = none) ∧
    ∀ n : Nat, Tracks (List.replicate (n + 1) PortInputs.reset) (State.resetOn stream)

/-- `LAT` cannot change at run time: every step keeps the number of slots, and at least one of them (R9, R23, R26).
That a power cycle is a step that keeps them is the model's choice (log entry 5). -/
def Obligations.StepKeepsPipelineShape : Prop :=
  ∀ (s t : State) (lat : Nat), s.wf = true ∧ s.pipe.length = lat → step s = .next t → t.wf = true ∧ t.pipe.length = lat

/-- Every step, the model's own power cycle included (log entry 5), keeps this: slot `k` holds the response of the command accepted `k+1` edges ago, if one was accepted and no
reset has been sampled since; and once a reset has been sampled, a slot that no later command has reached
holds none (R26, R29, R30, R33). -/
def Obligations.StepKeepsSlotHistory : Prop :=
  ∀ (hist : List PortInputs) (s t : State), Tracks hist s → step s = .next t → Tracks (historyAfter s.presented hist) t

/-- R151: with no reset, the outputs in cycle `m` answer the inputs presented in cycle `m - LAT`. -/
def Obligations.ResponseTraceLaw : Prop :=
  ∀ (s : State) (ins : List PortInputs) (m : Nat),
    1 ≤ s.pipe.length → (∀ p ∈ ins, p.rst = false) → s.pipe.length ≤ m → m ≤ ins.length →
      ∃ t p, atCycle s ins m = .next t ∧ ins[m - s.pipe.length]? = some p ∧ t.rspValid = p.reqValid ∧
        (p.reqValid = true → t.rspData = coreF p.reqOp p.reqA p.reqB)

/-- A command presented in cycle `n` is answered in cycle `n + LAT` when no reset is sampled at the `LAT` edges from its own
on; when one is, no response stands there (R31, R143, R123). -/
def Obligations.LatencyAndDiscard : Prop :=
  ∀ (s : State) (ins : List PortInputs) (n : Nat) (p : PortInputs),
    1 ≤ s.pipe.length → ins[n]? = some p → p.reqValid = true → n + s.pipe.length ≤ ins.length →
      ∃ t, atCycle s ins (n + s.pipe.length) = .next t ∧
        ((∀ q ∈ window ins n s.pipe.length, q.rst = false) →
          t.rspValid = true ∧ t.rspData = coreF p.reqOp p.reqA p.reqB) ∧
        ((∃ q ∈ window ins n s.pipe.length, q.rst = true) → t.rspValid = false)

/-- Once a reset has been sampled, or `LAT` edges have passed, every response shown in a cycle `m` is that of the command
accepted `LAT` edges before, with no reset since: none in the first `LAT` cycles after a reset, none twice, none
out of order (R31, R33, R141). -/
def Obligations.EveryResponseHasItsCommand : Prop :=
  ∀ (s : State) (ins : List PortInputs) (m : Nat),
    1 ≤ s.pipe.length → m ≤ ins.length → (s.pipe.length ≤ m ∨ ∃ q ∈ ins.take m, q.rst = true) →
      ∃ t, atCycle s ins m = .next t ∧ ∀ d, t.response = some d →
        s.pipe.length ≤ m ∧ (∀ q ∈ window ins (m - s.pipe.length) s.pipe.length, q.rst = false) ∧
          ∃ p, ins[m - s.pipe.length]? = some p ∧ p.reqValid = true ∧ d = coreF p.reqOp p.reqA p.reqB

/-- R148: two blocks with the same valid bits, driven with the same `rst` and `req_valid` sequences and any request
values, accept alike (slot 0's valid bit) and show the same `rsp_valid` in every cycle; and two commands accepted in
the same cycle of any two runs, whatever their operation and operands, are answered in the same cycle. -/
def Obligations.IsochronyAtTheInterface : Prop :=
  (∀ (s s' : State) (ins ins' : List PortInputs) (m : Nat),
    validBits s = validBits s' → List.Forall₂ SameControl ins ins' → m ≤ ins.length →
      ∃ t t', atCycle s ins m = .next t ∧ atCycle s' ins' m = .next t' ∧ validBits t = validBits t' ∧
        t.rspValid = t'.rspValid) ∧
  ∀ (s s' : State) (ins ins' : List PortInputs) (n lat : Nat) (p p' : PortInputs),
    1 ≤ lat → s.pipe.length = lat → s'.pipe.length = lat → n + lat ≤ ins.length → n + lat ≤ ins'.length →
    ins[n]? = some p → ins'[n]? = some p' → p.reqValid = true → p'.reqValid = true →
    (∀ q ∈ window ins n lat, q.rst = false) → (∀ q ∈ window ins' n lat, q.rst = false) →
      ∃ t t', atCycle s ins (n + lat) = .next t ∧ atCycle s' ins' (n + lat) = .next t' ∧ t.rspValid = true ∧
        t'.rspValid = true

/-- The result of a command is the same whenever it is accepted, whatever was in flight: no state carries a value from
one command into another (R20, R43, R144). -/
def Obligations.ResultDependsOnTheCommandAlone : Prop :=
  ∀ (i : Instr) (s s' : State), 1 ≤ s.pipe.length → 1 ≤ s'.pipe.length →
    ∃ t t', exec i s = .next t ∧ exec i s' = .next t' ∧ t.pipe[0]? = t'.pipe[0]? ∧
      t.pipe[0]? = some ⟨true, result (decode (encode i))⟩

/-- A stopped clock holds state and outputs, and a run is what it is without the stops; after a power cycle the block
has its `LAT` slots again (R132, R38). Plans and their moves are the model's form of the host (log entries 5, 6). -/
def Obligations.StoppedClockHolds : Prop :=
  (∀ s : State, s.presented = .stopClock →
    ∃ t, step s = .next t ∧ t.pipe = s.pipe ∧ t.rspValid = s.rspValid ∧ t.rspData = s.rspData) ∧
  (∀ (s : State) (moves : List HostMove),
    Host.Core.run core moves.length (s.withPlan moves) =
      Host.Core.run core (moves.filter (fun m => m ≠ .stopClock)).length
        (s.withPlan (moves.filter (fun m => m ≠ .stopClock)))) ∧
  ∀ s : State, s.presented = .powerCycle → ∃ t, step s = .next t ∧ t.pipe.length = s.pipe.length

/-- R39: a step of one instance is a step of that instance alone, and steps of two instances commute. -/
def Obligations.InstancesShareNothing : Prop :=
  (∀ (k : Nat) (bank : List State),
    ∃ bank', stepInstance k bank = .next bank' ∧ bank'.length = bank.length ∧
      (∀ j, j ≠ k → bank'[j]? = bank[j]?) ∧ ∀ s, bank[k]? = some s → ∃ t, step s = .next t ∧ bank'[k]? = some t) ∧
  ∀ (j k : Nat) (bank : List State), j ≠ k →
    ∃ bj bk b, stepInstance j bank = .next bj ∧ stepInstance k bank = .next bk ∧
      stepInstance k bj = .next b ∧ stepInstance j bk = .next b

/-- A host that drives the response byte it reads onto `req_a` in that very cycle chains two commands, `LAT` cycles
each (R145, R31). -/
def Obligations.DependentCommandsChain : Prop :=
  ∀ (s : State) (op op' : OpCode) (a b c : Byte), 1 ≤ s.pipe.length →
    ∃ t, atCycle s (.request op a b :: List.replicate (s.pipe.length - 1) .idle) s.pipe.length = .next t ∧
      t.response = some (coreF op a b) ∧
      ∃ u, atCycle t (.request op' t.rspData c :: List.replicate (s.pipe.length - 1) .idle) s.pipe.length = .next u ∧
        u.response = some (coreF op' (coreF op a b) c)

/-- R59: each pseudo-instruction is one command, with the result the table gives. -/
def Obligations.PseudoInstructionResults : Prop :=
  ∀ (a : Byte) (s : State),
    (Pseudo.sqr a).expand = .mul a a ∧ CompletesWith (Pseudo.sqr a).expand (pow8 a 2) s ∧
    (Pseudo.xtime a).expand = .mul a 0x02 ∧ CompletesWith (Pseudo.xtime a).expand (xtime a) s ∧
    (Pseudo.pass a).expand = .add a 0x00 ∧ CompletesWith (Pseudo.pass a).expand a s ∧
    Pseudo.zero.expand = .add 0x00 0x00 ∧ CompletesWith Pseudo.zero.expand 0x00 s ∧
    (∃ b, Pseudo.one.expand = .inv 0x01 b) ∧ CompletesWith Pseudo.one.expand 0x01 s

/-- An implementation that keeps commands in its registers and computes only in its last stage conforms, for
every `LAT` and every input sequence, reset or not (R27). -/
def Obligations.LateComputeConforms : Prop := ∀ lat : Nat, 1 ≤ lat → Conforms lat (lateCompute lat)

/-- A conforming part answers commands without ever having been reset, from cycle `LAT` on, whatever power left in its
registers (R27, R29, R32, R151); so a part that is dead until its first reset does not conform. -/
def Obligations.ConformanceCoversRunsWithoutReset : Prop :=
  ∀ lat : Nat, 1 ≤ lat →
    (∀ (I : Impl) (r : I.Regs) (ins : List PortInputs) (m : Nat) (p : PortInputs),
      Conforms lat I → (∀ q ∈ ins, q.rst = false) → lat ≤ m → m ≤ ins.length → ins[m - lat]? = some p →
        I.rspValid (I.after r (ins.take m)) = p.reqValid ∧
        (p.reqValid = true → I.rspData (I.after r (ins.take m)) = coreF p.reqOp p.reqA p.reqB)) ∧
    ¬ Conforms lat (deadUntilReset lat)
end

