-- ==== Sys2Proof/Laws/Encoding.lean ====
section
/-! SUPPORT. The fields of a command word, and the well-formedness of a typed command. -/

namespace Sys2Proof

theorem opField_commandWord (op : OpCode) (a b : Byte) : opField (commandWord op a b) = op := by
  unfold opField commandWord
  ext i hi
  simp only [BitVec.getElem_extractLsb', BitVec.getLsbD_append]
  rw [if_neg (by omega), if_neg (by omega), show 16 + i - 8 - 8 = i by omega, BitVec.getLsbD_eq_getElem hi]

theorem aField_commandWord (op : OpCode) (a b : Byte) : aField (commandWord op a b) = a := by
  unfold aField commandWord
  ext i hi
  simp only [BitVec.getElem_extractLsb', BitVec.getLsbD_append]
  rw [if_neg (by omega), if_pos (by omega), show 8 + i - 8 = i by omega, BitVec.getLsbD_eq_getElem hi]

theorem bField_commandWord (op : OpCode) (a b : Byte) : bField (commandWord op a b) = b := by
  unfold bField commandWord
  ext i hi
  simp only [BitVec.getElem_extractLsb', BitVec.getLsbD_append]
  rw [if_pos (by omega), Nat.zero_add, BitVec.getLsbD_eq_getElem hi]

theorem CommandFields.wellFormed_of_lt (f : CommandFields) (op : f.op < 4) (a : f.a < 256) (b : f.b < 256) :
    f.wellFormed = true := by
  simp [CommandFields.wellFormed, CommandFields.opFits, CommandFields.aFits, CommandFields.bFits, op, a, b]

/-- The ports cannot carry an ill-formed command (R53, R54). -/
theorem wellFormed_all (i : Instr) : i.wellFormed = true := by
  cases i <;>
    exact CommandFields.wellFormed_of_lt _ (by simp [Instr.fields]) (BitVec.isLt _) (BitVec.isLt _)

end Sys2Proof
end

