-- ==== Sys2Proof/Laws/State.lean ====
section
/-! SUPPORT. One lemma per field per update of the state, so that no later proof unfolds a record update. -/

namespace Sys2Proof.Machine

@[simp] theorem acceptEdge_pipe (r : Byte) (s : State) : (acceptEdge r s).pipe = shiftIn ⟨true, r⟩ s.pipe := rfl
@[simp] theorem acceptEdge_host (r : Byte) (s : State) : (acceptEdge r s).host = s.host.tail := rfl
@[simp] theorem acceptEdge_draw (r : Byte) (s : State) : (acceptEdge r s).draw = s.draw + 1 := rfl
@[simp] theorem acceptEdge_stream (r : Byte) (s : State) : (acceptEdge r s).stream = s.stream := rfl

@[simp] theorem idleEdge_pipe (s : State) : (idleEdge s).pipe = shiftIn ⟨false, Config.staleData s.stream s.draw 0 s.held⟩ s.pipe := rfl
@[simp] theorem idleEdge_host (s : State) : (idleEdge s).host = s.host.tail := rfl
@[simp] theorem idleEdge_draw (s : State) : (idleEdge s).draw = s.draw + 1 := rfl
@[simp] theorem idleEdge_stream (s : State) : (idleEdge s).stream = s.stream := rfl

@[simp] theorem resetEdge_pipe (s : State) : (resetEdge s).pipe = clearSlots s.stream s.draw s.held 0 s.pipe := rfl
@[simp] theorem resetEdge_host (s : State) : (resetEdge s).host = s.host.tail := rfl
@[simp] theorem resetEdge_draw (s : State) : (resetEdge s).draw = s.draw + 1 := rfl
@[simp] theorem resetEdge_stream (s : State) : (resetEdge s).stream = s.stream := rfl

@[simp] theorem holdClock_pipe (s : State) : (holdClock s).pipe = s.pipe := rfl
@[simp] theorem holdClock_host (s : State) : (holdClock s).host = s.host.tail := rfl
@[simp] theorem holdClock_draw (s : State) : (holdClock s).draw = s.draw := rfl
@[simp] theorem holdClock_stream (s : State) : (holdClock s).stream = s.stream := rfl

@[simp] theorem powerUp_pipe (s : State) : (powerUp s).pipe = powerUpSlots s.stream s.draw s.held 0 s.pipe := rfl
@[simp] theorem powerUp_host (s : State) : (powerUp s).host = s.host.tail := rfl
@[simp] theorem powerUp_draw (s : State) : (powerUp s).draw = s.draw + 1 := rfl
@[simp] theorem powerUp_stream (s : State) : (powerUp s).stream = s.stream := rfl

@[simp] theorem drive_pipe (m : HostMove) (s : State) : (s.drive m).pipe = s.pipe := rfl
@[simp] theorem drive_host (m : HostMove) (s : State) : (s.drive m).host = m :: s.host := rfl
@[simp] theorem drive_draw (m : HostMove) (s : State) : (s.drive m).draw = s.draw := rfl
@[simp] theorem drive_stream (m : HostMove) (s : State) : (s.drive m).stream = s.stream := rfl

@[simp] theorem withPlan_pipe (moves : List HostMove) (s : State) : (s.withPlan moves).pipe = s.pipe := rfl
@[simp] theorem withPlan_host (moves : List HostMove) (s : State) : (s.withPlan moves).host = moves := rfl
@[simp] theorem withPlan_draw (moves : List HostMove) (s : State) : (s.withPlan moves).draw = s.draw := rfl
@[simp] theorem withPlan_stream (moves : List HostMove) (s : State) : (s.withPlan moves).stream = s.stream := rfl

end Sys2Proof.Machine
end

