-- ==== Sys2Proof/Laws/Ops.lean ====
section
/-! SUPPORT. What each operation on the pipeline and each output can do, said once. -/

namespace Sys2Proof.Machine

@[simp] theorem shiftIn_length (x : Slot) (pipe : List Slot) : (shiftIn x pipe).length = pipe.length := by
  simp [shiftIn]

theorem shiftIn_getElem?_zero (x : Slot) (pipe : List Slot) (h : 1 ≤ pipe.length) : (shiftIn x pipe)[0]? = some x := by
  cases pipe with
  | nil => simp at h
  | cons y rest => simp [shiftIn]

theorem shiftIn_getElem?_succ (x : Slot) (pipe : List Slot) (k : Nat) (h : k + 1 < pipe.length) :
    (shiftIn x pipe)[k + 1]? = pipe[k]? := by
  rw [shiftIn, List.getElem?_dropLast]
  simp [h]

@[simp] theorem clearSlots_length (stream t : Nat) (held : List (Bool × Byte)) (k : Nat) (pipe : List Slot) :
    (clearSlots stream t held k pipe).length = pipe.length := by
  induction pipe generalizing k with
  | nil => rfl
  | cons _ rest ih => simp [clearSlots, ih]

/-- A reset leaves no slot valid (R30). -/
theorem clearSlots_v {stream t : Nat} {held : List (Bool × Byte)} {k : Nat} {pipe : List Slot} {x : Slot}
    (h : x ∈ clearSlots stream t held k pipe) : x.v = false := by
  induction pipe generalizing k with
  | nil => cases h
  | cons _ rest ih =>
    rcases List.mem_cons.1 h with rfl | h
    · rfl
    · exact ih h

@[simp] theorem powerUpSlots_length (stream t : Nat) (held : List (Bool × Byte)) (k : Nat) (pipe : List Slot) :
    (powerUpSlots stream t held k pipe).length = pipe.length := by
  induction pipe generalizing k with
  | nil => rfl
  | cons _ rest ih => simp [powerUpSlots, ih]

@[simp] theorem resetSlots_length (stream k n : Nat) : (resetSlots stream k n).length = n := by
  induction n generalizing k with
  | zero => rfl
  | succ n ih => simp [resetSlots, ih]

theorem resetSlots_v {stream k n : Nat} {x : Slot} (h : x ∈ resetSlots stream k n) : x.v = false := by
  induction n generalizing k with
  | zero => cases h
  | succ n ih =>
    rcases List.mem_cons.1 h with rfl | h
    · rfl
    · exact ih h

/-- The outputs show the last slot: `rsp_valid` and `rsp_data` together are its view (R32). -/
theorem response_eq (s : State) : s.response = s.lastSlot.bind Slot.view := by
  unfold State.response State.rspValid State.rspData Slot.view
  cases s.lastSlot with
  | none => rfl
  | some x => cases hv : x.v <;> simp [hv]

theorem rspValid_eq_isSome (s : State) : s.rspValid = s.response.isSome := by
  unfold State.response
  cases s.rspValid <;> rfl

@[simp] theorem presented_cons (s : State) (m : HostMove) (rest : List HostMove) :
    (s.withPlan (m :: rest)).presented = m := rfl

@[simp] theorem presented_drive (s : State) (m : HostMove) : (s.drive m).presented = m := rfl

end Sys2Proof.Machine
end

