-- ==== Sys2Proof/Laws/PerInstr.lean ====
section
/-! SUPPORT. Statements made for each command by itself. -/

namespace Sys2Proof.Laws

/-- A command's word carries its operation code, in bits 17..16 (R50, R51). -/
def OpcodeOfWord.Statement (i : Instr) : Prop := opField (encode i) = i.opCode

theorem OpcodeOfWord.add (a b : Byte) : OpcodeOfWord.Statement (.add a b) := opField_commandWord _ a b

theorem OpcodeOfWord.sub (a b : Byte) : OpcodeOfWord.Statement (.sub a b) := opField_commandWord _ a b

theorem OpcodeOfWord.mul (a b : Byte) : OpcodeOfWord.Statement (.mul a b) := opField_commandWord _ a b

theorem OpcodeOfWord.inv (a b : Byte) : OpcodeOfWord.Statement (.inv a b) := opField_commandWord _ a b

end Sys2Proof.Laws
end

