-- ==== Sys2Proof/Laws/Step.lean ====
section
/-! SUPPORT. What a step can do, said once; every fact about a step follows from it. -/

namespace Sys2Proof.Machine

/-- Every command is accepted with its result. -/
theorem exec_eq (i : Instr) (s : State) : exec i s = .next (acceptEdge (result i) s) := by
  cases i <;> rfl

/-- Decoding the ports and running the command is the core function of the ports (R52). -/
theorem result_decodeFields (op : OpCode) (a b : Byte) : result (decodeFields op a b) = coreF op a b := by
  unfold decodeFields coreF
  split_ifs <;> rfl

/-- The five things a step can be: a reset edge, a command's acceptance, an idle edge, a stopped clock, a power cycle. -/
theorem step_cases {s t : State} (h : step s = .next t) :
    (∃ p, s.presented = .edge p ∧ p.rst = true ∧ t = resetEdge s) ∨
    (∃ p, s.presented = .edge p ∧ p.rst = false ∧ p.reqValid = true ∧ t = acceptEdge (result (decode p.word)) s) ∨
    (∃ p, s.presented = .edge p ∧ p.rst = false ∧ p.reqValid = false ∧ t = idleEdge s) ∨
    (s.presented = .stopClock ∧ t = holdClock s) ∨
    (s.presented = .powerCycle ∧ t = powerUp s) := by
  unfold step at h
  split at h
  next p hp =>
    split at h
    next hr => exact .inl ⟨p, hp, hr, by injection h with h; exact h.symm⟩
    next hr =>
      split at h
      next hv =>
        rw [exec_eq] at h
        exact .inr (.inl ⟨p, hp, by simpa using hr, hv, by injection h with h; exact h.symm⟩)
      next hv =>
        exact .inr (.inr (.inl ⟨p, hp, by simpa using hr, by simpa using hv, by injection h with h; exact h.symm⟩))
  next hp => exact .inr (.inr (.inr (.inl ⟨hp, by injection h with h; exact h.symm⟩)))
  next hp => exact .inr (.inr (.inr (.inr ⟨hp, by injection h with h; exact h.symm⟩)))

end Sys2Proof.Machine
end

