-- ==== Sys2Proof/Laws/Run.lean ====
section
/-! SUPPORT. Runs over sampled inputs, one edge at a time. -/

namespace Sys2Proof.Safety

open Sys2Proof.Machine

/-- The command on the ports has the result `F(req_op, req_a, req_b)` (R52). -/
theorem result_decode_word (p : PortInputs) : result (decode p.word) = coreF p.reqOp p.reqA p.reqB := by
  rw [decode, PortInputs.word, opField_commandWord, aField_commandWord, bField_commandWord, result_decodeFields]
  rfl

/-- What a sampled edge does, whichever of the three it is; nothing else is left to the step. -/
theorem step_edge (s : State) (p : PortInputs) (rest : List HostMove) :
    step (s.withPlan (.edge p :: rest)) =
      .next (if p.rst then resetEdge (s.withPlan (.edge p :: rest))
        else if p.reqValid then acceptEdge (coreF p.reqOp p.reqA p.reqB) (s.withPlan (.edge p :: rest))
        else idleEdge (s.withPlan (.edge p :: rest))) := by
  simp only [step, presented_cons]
  split_ifs
  · rfl
  · rw [exec_eq, result_decode_word]
  · rfl

@[simp] theorem atCycle_zero (s : State) (ins : List PortInputs) : atCycle s ins 0 = .next (s.withPlan (ins.map .edge)) := rfl

/-- A run takes its first edge and goes on from there with the inputs that are left. -/
theorem atCycle_succ {s t : State} {p : PortInputs} {ins : List PortInputs}
    (h : step (s.withPlan ((p :: ins).map .edge)) = .next t) (m : Nat) : atCycle s (p :: ins) (m + 1) = atCycle t ins m := by
  have host : t.host = ins.map .edge := by
    rw [List.map_cons, step_edge] at h
    injection h with h
    subst h
    split_ifs <;> rfl
  have plan : t.withPlan (ins.map .edge) = t := by rw [← host]; rfl
  simp only [atCycle, Host.Core.run, core] at h ⊢
  rw [h, plan]

end Sys2Proof.Safety
end

