-- ==== Sys2Proof/Tests/Slice0.lean ====
section
/-! SUPPORT. The model's own tests. Expected results come from `spec/95_test_vectors.md` or from the rule a test names.
The witnesses at the end show, for each statement of `Obligations.lean` that has hypotheses, a state and operands that
meet them all. -/

-- One kernel evaluation at a time: each one running beside another takes a thread and its memory with it.
set_option Elab.async false

namespace Sys2Proof.Tests

open Sys2Proof Sys2Proof.Machine Sys2Proof.Safety

/-! ### Well-formedness: one ill-formed request for each check -/

theorem test_wellFormed_accepts : (CommandFields.mk 3 255 255).wellFormed = true := by decide

theorem test_wellFormed_refuses_op : (CommandFields.mk 4 0 0).wellFormed = false := by decide

theorem test_wellFormed_refuses_a : (CommandFields.mk 0 256 0).wellFormed = false := by decide

theorem test_wellFormed_refuses_b : (CommandFields.mk 0 0 256).wellFormed = false := by decide

theorem test_decodeNumbers_rejects_by_name :
    decodeNumbers ⟨4, 0, 0⟩ = .error (.opDoesNotFit 4) ∧ decodeNumbers ⟨0, 256, 0⟩ = .error (.aDoesNotFit 256) ∧
      decodeNumbers ⟨0, 0, 256⟩ = .error (.bDoesNotFit 256) ∧ decodeNumbers ⟨3, 0x6E, 0⟩ = .ok (.inv 0x6E 0x00) := by
  refine ⟨?_, ?_, ?_, ?_⟩ <;> rfl

theorem test_decodeNat_rejects_by_name : decodeNat 0x40000 = .error (.notACommandWord 0x40000) := by rfl

/-! ### Decoding: words written out from R50 and R51, operand bits all different -/

/-- `{00, 00000101, 00001100}`: S1 of section 1. -/
theorem test_decode_add : decode 0b00_00000101_00001100 = .add 5 12 := by decide

/-- `{01, 00100000, 11011011}`: S2. -/
theorem test_decode_sub : decode 0b01_00100000_11011011 = .sub 32 219 := by decide

/-- `{10, 10101111, 00101111}`: S3. -/
theorem test_decode_mul : decode 0b10_10101111_00101111 = .mul 175 47 := by decide

/-- `{11, 01101110, 00000000}`: S4. -/
theorem test_decode_inv : decode 0b11_01101110_00000000 = .inv 110 0 := by decide

/-- `{11, 01010011, 11111111}`: section 2.5, an INV with its don't-care byte set. -/
theorem test_decode_inv_ignored_field : decode 0b11_01010011_11111111 = .inv 0x53 0xFF := by decide

theorem test_encode_words :
    encode (.add 0x05 0x0C) = 0x0050C ∧ encode (.sub 0x20 0xDB) = 0x120DB ∧ encode (.mul 0xAF 0x2F) = 0x2AF2F ∧
      encode (.inv 0x6E 0x00) = 0x36E00 := by decide

theorem test_decodeTableWord : decodeTableWord 24 0x36E00 = some (.inv 0x6E 0x00) ∧ decodeTableWord 24 0x40000 = none := by
  decide

/-! ### One step of each command, by section 1 and section 2 of the test vectors -/

/-- A block with these slots whose host presents `moves`. -/
def block (pipe : List Slot) (moves : List HostMove) : State := ⟨pipe, moves, 0, 0⟩

/-- `pipe[0]` after one step. -/
def firstSlotAfter (s : State) : Option Slot :=
  match step s with
  | .next t => t.pipe[0]?
  | .fault _ => none
  | .refused _ => none

/-- A part with `LAT = 2`, an older response in its first slot, presented the word `w`. -/
def presenting (w : Nat) : State := (block [⟨true, 0x77⟩, ⟨false, 0x11⟩] []).withFetchWord 24 w

theorem test_add_vector : firstSlotAfter (presenting 0x0050C) = some ⟨true, 0x09⟩ := by decide +kernel

/-- No carry out of bit 7, none into bit 1 (section 2.1). -/
theorem test_add_no_carry : add8 0xFF 0xFF = 0x00 ∧ add8 0x80 0x80 = 0x00 ∧ add8 0xF0 0x0F = 0xFF := by decide

theorem test_sub_vector : firstSlotAfter (presenting 0x120DB) = some ⟨true, 0xFB⟩ := by decide +kernel

/-- SUB commutes (section 2.1). -/
theorem test_sub_commutes : sub8 0xDB 0x20 = 0xFB ∧ sub8 0x00 0x5A = 0x5A := by decide

theorem test_mul_vector : firstSlotAfter (presenting 0x2AF2F) = some ⟨true, 0x53⟩ := by decide +kernel

/-- Section 2.2: products that reduce by each of `C_8`, `C_14` and several constants. -/
theorem test_mul_reductions :
    mul8 0x80 0x02 = 0x1B ∧ mul8 0x80 0x80 = 0x9A ∧ mul8 0xFF 0xFF = 0x13 ∧ mul8 0x57 0x83 = 0xC1 ∧
      mul8 0xC7 0xDD = 0x17 := by decide +kernel

/-- Section 2.5: `b = 0xFF` has no effect. -/
theorem test_inv_vector : firstSlotAfter (presenting 0x353FF) = some ⟨true, 0xCA⟩ := by decide +kernel

/-- Section 2.5: the zero policy and corner cases. -/
theorem test_inv_corners :
    inv8 0x00 = 0x00 ∧ inv8 0x01 = 0x01 ∧ inv8 0x02 = 0x8D ∧ inv8 0x80 = 0x83 ∧ inv8 0x6E = 0x21 := by decide +kernel

/-! ### The units -/

/-- Section 2.2. -/
theorem test_clmul_vectors : clmul8 0xAF 0x2F = 0x13D5 ∧ clmul8 0xFF 0xFF = 0x5555 ∧ clmul8 0x53 0xCA = 0x3F7E := by
  decide

/-- Section 2.3: the iteration trace of 0xAF, 0x2F after 3 and after 7 iterations. -/
theorem test_mulRef_trace :
    mulRefAfter 0xAF 0x2F 3 = (0x60, 0x0F) ∧ mulRefAfter 0xAF 0x2F 7 = (0x53, 0xF0) := by decide +kernel

/-- Section 2.2: the non-conforming order. -/
theorem test_mulShiftFirst : mulShiftFirst 0x01 0x01 = 0x02 ∧ mulShiftFirst 0xAF 0x2F = 0xA6 := by decide

/-- Section 2.4: the chain trace of 0x6E. -/
theorem test_inv_trace :
    invTrace 0x6E =
      [0x6E, 0x93, 0xAF, 0xA3, 0x7A, 0x98, 0x40, 0xAB, 0x27, 0x79, 0x38, 0x37, 0xC4, 0x21] := by decide +kernel

/-! ### Edges and outputs -/

/-- The older response of `presenting` is on the outputs one edge later (R29, R32). -/
theorem test_response_moves_on :
    (match step (presenting 0x0050C) with
      | .next t => t.response
      | .fault _ => none
      | .refused _ => none) = some 0x77 := by decide +kernel

/-- Reset wins over a command at the same edge (R123). -/
theorem test_reset_wins :
    (match step (block [⟨true, 0x77⟩, ⟨true, 0x11⟩] [.edge ⟨true, true, 0, 5, 12⟩]) with
      | .next t => t.pipe.map Slot.v
      | .fault _ => []
      | .refused _ => []) = [false, false] := by decide +kernel

/-- An idle edge accepts nothing and moves the slots on (R29, R55). -/
theorem test_idle_edge :
    (match step (block [⟨true, 0x77⟩, ⟨true, 0x11⟩] [.edge ⟨false, false, 2, 5, 12⟩]) with
      | .next t => t.pipe.map Slot.view
      | .fault _ => []
      | .refused _ => []) = [none, some 0x77] := by decide +kernel

/-- The first step from reset runs the command placed there. -/
theorem test_first_step_from_reset : firstSlotAfter (State.reset.withFetchWord 24 0x36E00) = some ⟨true, 0x21⟩ := by
  decide +kernel

/-- `r@4` is not there before cycle 4 (R145); `INV a` drives `b = 0x00` (R58). -/
theorem test_listing_lines :
    (Line.add (.response 3) (.response 4)).inputs [(3, 0xAD)] = none ∧
      (Line.add (.response 3) (.response 4)).inputs [(4, 0x35), (3, 0xAD)] = some ⟨false, true, 0, 0xAD, 0x35⟩ ∧
      (Line.inv (.literal 0x6E)).inputs [] = some ⟨false, true, 3, 0x6E, 0x00⟩ := by decide

/-! ### Witnesses: each statement's hypotheses can be met -/

theorem witness_StepRunsTheDecodedCommand :
    (presenting 0x0050C).presented = .edge ⟨false, true, 0, 5, 12⟩ ∧
      decode (PortInputs.mk false true 0 5 12).word = .add 5 12 ∧ (Instr.add 5 12).wellFormed = true := by decide

theorem witness_DecodeOfEncodeIsTheCommand : (Instr.inv 0xFF 0xFF).wellFormed = true := by decide

theorem witness_EveryCommandWordRuns : 0x3FFFF < 2 ^ 18 ∧ 1 ≤ (block [⟨false, 0⟩] []).pipe.length := by decide

theorem witness_NonzeroElementsFormCyclicGroup : (0xFF : Byte) ≠ 0 ∧ (0x01 : Byte) ≠ 0 := by decide

/-- A chain other than the reference one: `254 = 2 (127)`, `127 = 126 + 1`, by way of `63 = 60 + 3`, `15 = 12 + 3`. -/
def shortChain : Chain :=
  let c3 := Chain.mul (.sqr .start) .start
  let c15 := Chain.mul (.sqr (.sqr c3)) c3
  let c63 := Chain.mul (.sqr (.sqr c15)) c3
  .sqr (.mul (.sqr c63) .start)

theorem witness_AnyChainTo254Inverts : shortChain.exponent = 254 := by decide

/-- The three clauses of `InverseCorrect`, each at a byte of its own. -/
theorem witness_InverseCorrect : (0x02 : Byte) ≠ 0 ∧ (0x00 : Byte) = 0 ∧ (0x01 : Byte) = 1 := by decide

theorem witness_FrameOfEveryCommand : ∃ t, exec (.mul 2 3) (block [⟨true, 1⟩, ⟨false, 2⟩] []) = .next t := ⟨_, rfl⟩

/-- Both clauses: a valid command (the result clause) and two slots (the shift clause, at `k = 1`). -/
theorem witness_EdgeWithoutReset :
    (block [⟨true, 1⟩, ⟨false, 2⟩] [.edge (.request 2 3 4)]).presented = .edge (.request 2 3 4) ∧
      (PortInputs.request 2 3 4).rst = false ∧ (PortInputs.request 2 3 4).reqValid = true ∧
      1 < (block [⟨true, 1⟩, ⟨false, 2⟩] []).pipe.length := by decide

theorem witness_EdgeWithReset :
    (block [⟨true, 1⟩] [.edge .reset]).presented = .edge .reset ∧ PortInputs.reset.rst = true := by decide

theorem witness_StepKeepsPipelineShape :
    (block [⟨true, 1⟩] []).wf = true ∧ ∃ t, step (block [⟨true, 1⟩] []) = .next t := ⟨by decide, _, rfl⟩

/-- The slots of a part with `LAT = 2` after ADD 5, 12 and then a NOP. -/
theorem witness_StepKeepsSlotHistory :
    (∃ t, step (block [⟨false, 0⟩, ⟨true, 9⟩] []) = .next t) ∧
      Tracks [.idle, .request 0 5 12] (block [⟨false, 0⟩, ⟨true, 9⟩] []) := by
  refine ⟨⟨_, rfl⟩, fun k x hx _ => ?_⟩
  match k with
  | 0 => simp only [block, List.getElem?_cons_zero, Option.some.injEq] at hx; subst hx; decide
  | 1 => simp only [block, List.getElem?_cons_succ, List.getElem?_cons_zero, Option.some.injEq] at hx; subst hx; decide
  | k + 2 => simp [block] at hx

/-- `LAT = 2`, `m = 2`: the least cycle the law speaks of. -/
theorem witness_ResponseTraceLaw :
    1 ≤ (block [⟨true, 1⟩, ⟨true, 2⟩] []).pipe.length ∧
      (∀ p ∈ [PortInputs.request 0 5 12, .idle], p.rst = false) ∧
      (block [⟨true, 1⟩, ⟨true, 2⟩] []).pipe.length ≤ 2 ∧ 2 ≤ [PortInputs.request 0 5 12, .idle].length := by decide

/-- Both clauses: no reset at the `LAT` edges, and one at the last of them. -/
theorem witness_LatencyAndDiscard :
    [PortInputs.request 0 5 12, .idle][0]? = some (.request 0 5 12) ∧ (PortInputs.request 0 5 12).reqValid = true ∧
      0 + 2 ≤ [PortInputs.request 0 5 12, .idle].length ∧
      (∀ q ∈ window [PortInputs.request 0 5 12, .idle] 0 2, q.rst = false) ∧
      (∃ q ∈ window [PortInputs.request 0 5 12, .reset] 0 2, q.rst = true) := by decide

/-- Both ways into the statement: `LAT` edges have passed, and a reset has been sampled; and a response that is shown. -/
theorem witness_EveryResponseHasItsCommand :
    (block [⟨true, 1⟩] []).pipe.length ≤ 1 ∧ (∃ q ∈ [PortInputs.reset].take 1, q.rst = true) ∧
      (match atCycle (block [⟨true, 1⟩] []) [.request 0 5 12] 1 with
        | .next t => t.response
        | .fault _ => none
        | .refused _ => none) = some 9 := by decide +kernel

theorem witness_IsochronyAtTheInterface :
    validBits (block [⟨true, 1⟩] []) = validBits (block [⟨true, 2⟩] []) ∧
      List.Forall₂ SameControl [PortInputs.request 0 5 12] [.request 3 0 0] ∧ 1 ≤ [PortInputs.request 0 5 12].length :=
  ⟨by decide, .cons ⟨rfl, rfl⟩ .nil, by decide⟩

/-- The second clause, with `LAT = 1`: two different commands in cycle 0. -/
theorem witness_IsochronyAtTheInterface_latency :
    (block [⟨true, 1⟩] []).pipe.length = 1 ∧ 0 + 1 ≤ [PortInputs.request 0 5 12].length ∧
      [PortInputs.request 0 5 12][0]? = some (.request 0 5 12) ∧ [PortInputs.request 3 0 0][0]? = some (.request 3 0 0) ∧
      (∀ q ∈ window [PortInputs.request 0 5 12] 0 1, q.rst = false) ∧
      (∀ q ∈ window [PortInputs.request 3 0 0] 0 1, q.rst = false) := by decide

theorem witness_ResultDependsOnTheCommandAlone :
    1 ≤ (block [⟨true, 1⟩] []).pipe.length ∧ 1 ≤ (block [⟨false, 1⟩, ⟨true, 3⟩] []).pipe.length := by decide

theorem witness_StoppedClockHolds :
    (block [⟨true, 1⟩] [.stopClock]).presented = .stopClock ∧ (block [⟨true, 1⟩] [.powerCycle]).presented = .powerCycle := by
  decide

theorem witness_InstancesShareNothing :
    (0 : Nat) ≠ 1 ∧ [block [⟨true, 1⟩] [], block [⟨true, 2⟩] []][1]? = some (block [⟨true, 2⟩] []) := by decide

theorem witness_DependentCommandsChain : 1 ≤ (block [⟨true, 1⟩] []).pipe.length := by decide

theorem witness_LateComputeConforms : 1 ≤ 2 := by decide

/-- A part with `LAT = 1` that holds its one response as an option. -/
def oneStage : Impl where
  Regs := Option Byte
  next := fun _ p => if p.rst then none else requested p
  rspValid := fun r => Option.isSome r
  rspData := fun r => Option.getD r 0x00

/-- Where the one slot's view is the register, the ports agree in every cycle of a run. -/
theorem oneStage_portsAgree (ins : List PortInputs) (x : Slot) (s : State) (hs : s.pipe = [x]) (m : Nat)
    (hm : m ≤ ins.length) : PortsAgree oneStage x.view s ins m := by
  induction ins generalizing x s m with
  | nil =>
    obtain rfl : m = 0 := by simpa using hm
    refine ⟨_, rfl, ?_, ?_⟩ <;>
      cases hv : x.v <;>
      simp [Impl.after, oneStage, State.rspValid, State.rspData, State.lastSlot, Slot.view, hs, hv]
  | cons p ins ih =>
    cases m with
    | zero =>
      refine ⟨_, rfl, ?_, ?_⟩ <;>
        cases hv : x.v <;>
        simp [Impl.after, oneStage, State.rspValid, State.rspData, State.lastSlot, Slot.view, hs, hv]
    | succ m =>
      obtain ⟨t, ht, y, hy, hview⟩ : ∃ t, step (s.withPlan ((p :: ins).map .edge)) = .next t ∧
          ∃ y, t.pipe = [y] ∧ y.view = oneStage.next x.view p := by
        rw [List.map_cons, step_edge]
        refine ⟨_, rfl, ?_⟩
        cases hr : p.rst <;> cases hq : p.reqValid <;>
          simp [hs, shiftIn, clearSlots, oneStage, requested, Slot.view, hr, hq]
      obtain ⟨u, hu, agree⟩ := ih y t hy m (by simpa using hm)
      exact ⟨u, by rw [atCycle_succ ht, hu], by rw [hview] at agree; exact agree⟩

/-- All hypotheses together, at the least cycle `m = lat = 1`: a part that conforms, and inputs without reset. -/
theorem witness_ConformanceCoversRunsWithoutReset :
    Conforms 1 oneStage ∧ (∀ q ∈ [PortInputs.request 0 5 12], q.rst = false) ∧ 1 ≤ [PortInputs.request 0 5 12].length ∧
      [PortInputs.request 0 5 12][1 - 1]? = some (.request 0 5 12) := by
  refine ⟨fun r ins => ?_, by decide, by decide, by decide⟩
  have hr : (⟨Option.isSome r, Option.getD r 0x00⟩ : Slot).view = r := by cases r <;> rfl
  refine ⟨block [⟨Option.isSome r, Option.getD r 0x00⟩] [], rfl, fun m hm => ?_⟩
  have agree := oneStage_portsAgree ins ⟨Option.isSome r, Option.getD r 0x00⟩ (block [⟨Option.isSome r, Option.getD r 0x00⟩] []) rfl m hm
  rw [hr] at agree
  exact agree

end Sys2Proof.Tests
end

section
/-! The shape of the pipeline under a step. -/

namespace Sys2Proof.Machine

theorem State.wf_iff (s : State) : s.wf = true ↔ 1 ≤ s.pipe.length := by simp [State.wf]

/-- `LAT` is fixed when the block is built (R9, R23): no step adds or removes a slot. -/
theorem step_pipe_length {s t : State} (h : step s = .next t) : t.pipe.length = s.pipe.length := by
  obtain ⟨p, -, -, rfl⟩ | ⟨p, -, -, -, rfl⟩ | ⟨p, -, -, -, rfl⟩ | ⟨-, rfl⟩ | ⟨-, rfl⟩ := step_cases h
  · rw [resetEdge_pipe, clearSlots_length]
  · rw [acceptEdge_pipe, shiftIn_length]
  · rw [idleEdge_pipe, shiftIn_length]
  · rw [holdClock_pipe]
  · rw [powerUp_pipe, powerUpSlots_length]

/-- Settles O34: the number of slots is kept by each of the five things a step can be. -/
theorem stepKeepsPipelineShape : Obligations.StepKeepsPipelineShape := by
  rintro s t lat ⟨hwf, hlat⟩ h
  have hlen := step_pipe_length h
  rw [State.wf_iff] at hwf ⊢
  exact ⟨hlen ▸ hwf, hlen.trans hlat⟩

end Sys2Proof.Machine
end

section
/-! Bit vectors as polynomials over GF(2) (R12): what `polyOf` makes of the operators on words. -/

namespace Sys2Proof

open Polynomial

theorem polyOf_coeff {n : Nat} (v : BitVec n) (k : Nat) :
    (polyOf v).coeff k = if v.getLsbD k then 1 else 0 := by
  have hterm (i : Nat) : (if v.getLsbD i then (X : (ZMod 2)[X]) ^ i else 0).coeff k =
      if k = i then (if v.getLsbD i then 1 else 0) else 0 := by
    split_ifs <;> simp_all [coeff_X_pow]
  simp only [polyOf, finsetSum_coeff, hterm, Finset.sum_ite_eq, Finset.mem_range]
  by_cases hk : k < n
  · rw [if_pos hk]
  · rw [if_neg hk, BitVec.getLsbD_of_ge v k (by omega), if_neg Bool.false_ne_true]

@[simp] theorem polyOf_zero {n : Nat} : polyOf 0#n = 0 := by
  ext k; simp [polyOf_coeff]

theorem polyOf_xor {n : Nat} (v w : BitVec n) : polyOf (v ^^^ w) = polyOf v + polyOf w := by
  ext k
  rw [coeff_add, polyOf_coeff, polyOf_coeff, polyOf_coeff, BitVec.getLsbD_xor]
  cases v.getLsbD k <;> cases w.getLsbD k <;> decide

theorem polyOf_degree_lt {n : Nat} (v : BitVec n) : (polyOf v).degree < n := by
  rw [degree_lt_iff_coeff_zero]
  intro k hk
  rw [polyOf_coeff, BitVec.getLsbD_of_ge v k hk, if_neg Bool.false_ne_true]

/-- Widths do not matter to the polynomial, as long as no set bit is cut off. -/
theorem polyOf_setWidth {n m : Nat} (v : BitVec n) (fits : ∀ k, m ≤ k → v.getLsbD k = false) :
    polyOf (v.setWidth m) = polyOf v := by
  ext k
  rw [polyOf_coeff, polyOf_coeff, BitVec.getLsbD_setWidth]
  by_cases hk : k < m
  · simp [hk]
  · simp [hk, fits k (by omega)]

/-- A left shift by `i` that loses no set bit multiplies by `x^i`. -/
theorem polyOf_shiftLeft {n : Nat} (v : BitVec n) (i : Nat) (fits : ∀ k, n ≤ k + i → v.getLsbD k = false) :
    polyOf (v <<< i) = polyOf v * X ^ i := by
  ext k
  rw [coeff_mul_X_pow', polyOf_coeff, polyOf_coeff, BitVec.getLsbD_shiftLeft]
  by_cases hik : i ≤ k
  · by_cases hk : k < n
    · simp [hik, hk]
    · simp [hk, fits (k - i) (by omega)]
  · simp [hik, Nat.lt_of_not_le hik]

/-- The polynomial of an exclusive-or accumulated over a list is the sum of the terms' polynomials. -/
theorem polyOf_foldl_xor {α : Type} {n : Nat} (f : α → BitVec n) (l : List α) (start : BitVec n) :
    polyOf (l.foldl (fun p i => p ^^^ f i) start) = polyOf start + (l.map fun i => polyOf (f i)).sum := by
  induction l generalizing start with
  | nil => simp
  | cons i l ih => rw [List.foldl_cons, ih, polyOf_xor, List.map_cons, List.sum_cons, add_assoc]

theorem polyOf_reducingConstant : polyOf (0x11B : Product) = reducingPoly := by
  calc polyOf (0x11B : Product)
      = 1 + X + X ^ 3 + X ^ 4 + X ^ 8 := by simp [polyOf, Finset.sum_range_succ]
    _ = reducingPoly := by rw [reducingPoly]; ring

theorem reducingPoly_degree : reducingPoly.degree = 8 := by
  unfold reducingPoly
  compute_degree!

theorem reducingPoly_monic : reducingPoly.Monic := by
  unfold reducingPoly
  monicity!

end Sys2Proof
end

section
/-! The carry-less product, its reduction, and MUL, as operations on polynomials over GF(2) (R80, R81, R82). -/

namespace Sys2Proof.Machine

open Polynomial

theorem and_rep8 (v : Byte) (c : Bool) : v &&& rep8 c = if c then v else 0 := by
  cases c
  · exact BitVec.and_zero
  · exact BitVec.and_allOnes

theorem and_rep15 (v : Product) (c : Bool) : v &&& rep15 c = if c then v else 0 := by
  cases c
  · exact BitVec.and_zero
  · exact BitVec.and_allOnes

/-- The copy of `a` that bit `i` of `b` selects (R80) stands for `a` times that term of `b`. -/
theorem polyOf_maskedShift (a : Byte) (c : Bool) {i : Nat} (hi : i ≤ 7) :
    polyOf ((a &&& rep8 c).setWidth 15 <<< i) = polyOf a * if c then X ^ i else 0 := by
  have widened (v : Byte) : polyOf (v.setWidth 15) = polyOf v :=
    polyOf_setWidth v fun k hk => BitVec.getLsbD_of_ge v k (by omega)
  have fits (k : Nat) (hk : 15 ≤ k + i) : ((a &&& rep8 c).setWidth 15).getLsbD k = false := by
    rw [BitVec.getLsbD_setWidth, BitVec.getLsbD_of_ge _ k (by omega), Bool.and_false]
  rw [polyOf_shiftLeft _ i fits, widened, and_rep8]
  cases c <;> simp

/-- The carry-less product is the product of the polynomials (R80). -/
theorem polyOf_clmul8 (a b : Byte) : polyOf (clmul8 a b) = polyOf a * polyOf b := by
  have hterm (i : Nat) (hi : i ∈ List.range 8) : polyOf ((a &&& rep8 (bit b i)).setWidth 15 <<< i) =
      polyOf a * if b.getLsbD i then X ^ i else 0 :=
    polyOf_maskedShift a (bit b i) (Nat.le_of_lt_succ (List.mem_range.1 hi))
  calc polyOf (clmul8 a b)
      = ((List.range 8).map fun i => polyOf ((a &&& rep8 (bit b i)).setWidth 15 <<< i)).sum := by
        simp only [clmul8, polyOf_foldl_xor, BitVec.ofNat_eq_ofNat, polyOf_zero, zero_add]; rfl
    _ = ((List.range 8).map fun i => polyOf a * if b.getLsbD i then X ^ i else 0).sum := by
        rw [List.map_congr_left hterm]
    _ = polyOf a * polyOf b := by rw [List.sum_map_mul_left]; rfl

/-- One reduction step, with the shift of `0x11B` read as a shift of the 15-bit word (R81). -/
theorem reduceBit_eq (p : Product) (k : Nat) :
    reduceBit p k = if bit p k then p ^^^ (0x11B : Product) <<< (k - 8) else p := by
  have hshift : ((0x11B <<< (k - 8) : Nat) : Product) = (0x11B : Product) <<< (k - 8) := by
    apply BitVec.eq_of_toNat_eq
    simp
  rw [reduceBit, and_rep15]
  split_ifs
  · rw [hshift]
  · exact BitVec.xor_zero

theorem reducingConstant_getLsbD (j : Nat) (hj : 8 < j) : (0x11B : Product).getLsbD j = false :=
  Nat.testBit_lt_two_pow (Nat.lt_of_lt_of_le (by decide) (Nat.pow_le_pow_right Nat.two_pos hj))

/-- One reduction step adds a multiple of p(x) (R81). -/
theorem polyOf_reduceBit (p : Product) {k : Nat} (hk : 8 ≤ k ∧ k ≤ 14) :
    polyOf (reduceBit p k) = polyOf p + (if bit p k then X ^ (k - 8) else 0) * reducingPoly := by
  rw [reduceBit_eq]
  split_ifs
  · have fits (j : Nat) (hj : 15 ≤ j + (k - 8)) := reducingConstant_getLsbD j (by omega)
    rw [polyOf_xor, polyOf_shiftLeft _ _ fits, polyOf_reducingConstant, mul_comm]
  · rw [zero_mul, add_zero]

theorem polyOf_reduceBit_modByMonic (p : Product) {k : Nat} (hk : 8 ≤ k ∧ k ≤ 14) :
    polyOf (reduceBit p k) %ₘ reducingPoly = polyOf p %ₘ reducingPoly := by
  rw [polyOf_reduceBit p hk, add_modByMonic, mul_self_modByMonic reducingPoly_monic, add_zero]

theorem polyOf_foldl_reduceBit_modByMonic (l : List Nat) (hl : ∀ k ∈ l, 8 ≤ k ∧ k ≤ 14) (p : Product) :
    polyOf (l.foldl reduceBit p) %ₘ reducingPoly = polyOf p %ₘ reducingPoly := by
  induction l generalizing p with
  | nil => rfl
  | cons k l ih =>
    rw [List.foldl_cons, ih (fun j hj => hl j (List.mem_cons_of_mem k hj)),
      polyOf_reduceBit_modByMonic p (hl k List.mem_cons_self)]

/-- Bits `k` and above of `p` are 0. -/
def ClearFrom (p : Product) (k : Nat) : Prop := ∀ j, k ≤ j → p.getLsbD j = false

/-- The copy of `0x11B` that bit `k` selects has its top bit at `k`. -/
theorem shiftedConstant_getLsbD {k j : Nat} (hk : 8 ≤ k ∧ k ≤ 14) (hj : k ≤ j) :
    ((0x11B : Product) <<< (k - 8)).getLsbD j = decide (j = k) := by
  rw [BitVec.getLsbD_shiftLeft]
  obtain rfl | hlt := hj.eq_or_lt
  · have htop : k - (k - 8) = 8 := by omega
    have hwidth : k < 15 := by omega
    have hnotBelow : ¬ k < k - 8 := by omega
    simp [htop, hwidth, hnotBelow]
  · rw [reducingConstant_getLsbD _ (by omega), Bool.and_false, decide_eq_false (Nat.ne_of_gt hlt)]

/-- A reduction step clears its bit and sets none above it (R81). -/
theorem reduceBit_clearFrom {p : Product} {k : Nat} (hk : 8 ≤ k ∧ k ≤ 14) (h : ClearFrom p (k + 1)) :
    ClearFrom (reduceBit p k) k := by
  intro j hj
  have hbit : p.getLsbD j = (bit p k && decide (j = k)) := by
    obtain rfl | hlt := hj.eq_or_lt
    · simp [bit]
    · simp [h j hlt, Nat.ne_of_gt hlt]
  rw [reduceBit_eq]
  split_ifs with hset
  · rw [BitVec.getLsbD_xor, shiftedConstant_getLsbD hk hj, hbit, hset, Bool.true_and, Bool.xor_self]
  · simpa [hset] using hbit

theorem foldl_reduceBit_clearFrom (p : Product) : ClearFrom ([14, 13, 12, 11, 10, 9, 8].foldl reduceBit p) 8 := by
  have h15 : ClearFrom p 15 := BitVec.getLsbD_of_ge p
  have h14 := reduceBit_clearFrom (by decide) h15
  have h13 := reduceBit_clearFrom (by decide) h14
  have h12 := reduceBit_clearFrom (by decide) h13
  have h11 := reduceBit_clearFrom (by decide) h12
  have h10 := reduceBit_clearFrom (by decide) h11
  have h9 := reduceBit_clearFrom (by decide) h10
  exact reduceBit_clearFrom (by decide) h9

/-- The reducer gives the remainder on division by p(x) (R81). -/
theorem polyOf_red15 (p : Product) : polyOf (red15 p) = polyOf p %ₘ reducingPoly := by
  have hdeg : (polyOf (red15 p)).degree < reducingPoly.degree := by
    rw [reducingPoly_degree]; exact polyOf_degree_lt (red15 p)
  calc polyOf (red15 p)
      = polyOf (red15 p) %ₘ reducingPoly := ((modByMonic_eq_self_iff reducingPoly_monic).2 hdeg).symm
    _ = polyOf ([14, 13, 12, 11, 10, 9, 8].foldl reduceBit p) %ₘ reducingPoly := by
        rw [red15, polyOf_setWidth _ (foldl_reduceBit_clearFrom p)]
    _ = polyOf p %ₘ reducingPoly := polyOf_foldl_reduceBit_modByMonic _ (by decide) p

/-- MUL is multiplication modulo p(x) (R82). -/
theorem polyOf_mul8 (a b : Byte) : polyOf (mul8 a b) = (polyOf a * polyOf b) %ₘ reducingPoly := by
  rw [mul8, polyOf_red15, polyOf_clmul8]

/-- Every command completes with its result (R29, R120). -/
theorem completesWith_result (i : Instr) (s : State) : Safety.CompletesWith i (result i) s :=
  ⟨acceptEdge (result i) s, exec_eq i s, shiftIn_length _ _, shiftIn_getElem?_zero _ _, shiftIn_getElem?_succ _ _⟩

/-- Settles O16: the reduced carry-less product, read as a polynomial, is the product's remainder modulo p(x). -/
theorem mulIsPolynomialProductModP : Obligations.MulIsPolynomialProductModP := fun a b s =>
  ⟨mul8 a b, completesWith_result (.mul a b) s, polyOf_mul8 a b⟩

end Sys2Proof.Machine
end

section
/-! What one step does, by the move presented: every case answers a next state. -/

namespace Sys2Proof.Machine

theorem step_of_reset {s : State} {p : PortInputs} (hp : s.presented = .edge p) (hr : p.rst = true) :
    step s = .next (resetEdge s) := by
  simp [step, hp, hr]

/-- A command presented without reset is decoded and executed, and nothing else happens (R29, R33). -/
theorem step_of_request {s : State} {p : PortInputs} (hp : s.presented = .edge p) (hr : p.rst = false)
    (hv : p.reqValid = true) : step s = exec (decode p.word) s := by
  simp [step, hp, hr, hv]

theorem step_of_idle {s : State} {p : PortInputs} (hp : s.presented = .edge p) (hr : p.rst = false)
    (hv : p.reqValid = false) : step s = .next (idleEdge s) := by
  simp [step, hp, hr, hv]

theorem step_of_stopClock {s : State} (hp : s.presented = .stopClock) : step s = .next (holdClock s) := by
  simp [step, hp]

theorem step_of_powerCycle {s : State} (hp : s.presented = .powerCycle) : step s = .next (powerUp s) := by
  simp [step, hp]

/-- No move of the host stops the block (R120, R133). -/
theorem step_answers_next (s : State) : ∃ t, step s = .next t := by
  match hp : s.presented with
  | .edge p =>
    cases hr : p.rst with
    | true => exact ⟨_, step_of_reset hp hr⟩
    | false =>
      cases hv : p.reqValid with
      | true => exact ⟨_, (step_of_request hp hr hv).trans (exec_eq _ s)⟩
      | false => exact ⟨_, step_of_idle hp hr hv⟩
  | .stopClock => exact ⟨_, step_of_stopClock hp⟩
  | .powerCycle => exact ⟨_, step_of_powerCycle hp⟩

/-- An edge without reset shifts one slot in: it is valid when a command was presented, and then holds the core
function of the ports (R29). -/
theorem step_without_reset {s : State} {p : PortInputs} (hp : s.presented = .edge p) (hr : p.rst = false) :
    ∃ t x, step s = .next t ∧ t.pipe = shiftIn x s.pipe ∧ x.v = p.reqValid ∧
      (p.reqValid = true → x.d = coreF p.reqOp p.reqA p.reqB) := by
  cases hv : p.reqValid with
  | true =>
    refine ⟨_, _, (step_of_request hp hr hv).trans (exec_eq _ s), acceptEdge_pipe _ s, rfl, fun _ => ?_⟩
    exact Safety.result_decode_word p
  | false => exact ⟨_, _, step_of_idle hp hr hv, idleEdge_pipe s, rfl, nofun⟩

/-- Settles O1. -/
theorem stepRunsTheDecodedCommand : Obligations.StepRunsTheDecodedCommand := by
  rintro s p i hp hr hv rfl -
  exact step_of_request hp hr hv

/-- Settles O29: the edge is a shift of the pipeline, read slot by slot. -/
theorem edgeWithoutReset : Obligations.EdgeWithoutReset := by
  intro s p hp hr
  obtain ⟨t, x, ht, hpipe, hxv, hxd⟩ := step_without_reset hp hr
  refine ⟨t, ht, step_pipe_length ht, fun k hk hlen => ?_, fun hlen => ⟨x, ?_, hxv, hxd⟩⟩
  · obtain ⟨j, rfl⟩ := Nat.exists_eq_add_of_le' hk
    rw [hpipe, Nat.add_sub_cancel]
    exact shiftIn_getElem?_succ x s.pipe j hlen
  · rw [hpipe]
    exact shiftIn_getElem?_zero x s.pipe hlen

/-- Settles O27: every command is its acceptance edge, whose fields are known. -/
theorem frameOfEveryCommand : Obligations.FrameOfEveryCommand := by
  intro i s t h
  obtain rfl := Host.Outcome.next.inj ((exec_eq i s).symm.trans h)
  exact ⟨shiftIn_length _ _, shiftIn_getElem?_succ _ _, rfl, rfl, rfl⟩

/-- Every command is read back from its word (R50, R51). -/
theorem decode_encode (i : Instr) : decode (encode i) = i := by
  rw [decode, encode, opField_commandWord, aField_commandWord, bField_commandWord]
  cases i <;> rfl

/-- Settles O40: what enters `pipe[0]` is computed from the command alone. -/
theorem resultDependsOnTheCommandAlone : Obligations.ResultDependsOnTheCommandAlone := by
  intro i s s' hs hs'
  have first (u : State) (hu : 1 ≤ u.pipe.length) : (acceptEdge (result i) u).pipe[0]? = some ⟨true, result i⟩ :=
    shiftIn_getElem?_zero _ _ hu
  exact ⟨_, _, exec_eq i s, exec_eq i s', (first s hs).trans (first s' hs').symm, by rw [decode_encode, first s hs]⟩

/-- An edge keeps of the host's plan only what follows the move made, whichever of the three edges it is. -/
theorem resetEdge_withPlan_cons (s : State) (m m' : HostMove) (rest : List HostMove) :
    resetEdge (s.withPlan (m :: rest)) = resetEdge (s.withPlan (m' :: rest)) := rfl

theorem acceptEdge_withPlan_cons (r : Byte) (s : State) (m m' : HostMove) (rest : List HostMove) :
    acceptEdge r (s.withPlan (m :: rest)) = acceptEdge r (s.withPlan (m' :: rest)) := rfl

theorem idleEdge_withPlan_cons (s : State) (m m' : HostMove) (rest : List HostMove) :
    idleEdge (s.withPlan (m :: rest)) = idleEdge (s.withPlan (m' :: rest)) := rfl

/-- The core function of code `0b11` does not read `b` (R52). -/
theorem coreF_inv (a b : Byte) : coreF 0b11 a b = inv8 a := by
  rw [coreF, if_neg (by decide), if_neg (by decide), if_neg (by decide)]

/-- Settles O31: the edge is of the same kind with the same result, and what is left of the plan is the same. -/
theorem ignoredInputs : Obligations.IgnoredInputs := by
  refine ⟨fun s op op' a a' b b' rest => ?_, fun s r v a b b' rest => ?_⟩
  · rw [step_of_idle (presented_cons s _ rest) rfl rfl, step_of_idle (presented_cons s _ rest) rfl rfl,
      idleEdge_withPlan_cons]
  · rw [Safety.step_edge, Safety.step_edge, resetEdge_withPlan_cons, acceptEdge_withPlan_cons, idleEdge_withPlan_cons,
      coreF_inv, coreF_inv]

end Sys2Proof.Machine
end

section
/-! The outputs, read off the last slot (R32), and what a reset leaves on them (R30, R37). -/

namespace Sys2Proof.Machine

theorem response_eq_none_iff (s : State) : s.response = none ↔ s.rspValid = false := by
  simp [State.response]

theorem response_eq_some_iff (s : State) (d : Byte) : s.response = some d ↔ s.rspValid = true ∧ s.rspData = d := by
  simp [State.response]

/-- With a slot there, the response is what the last one holds. -/
theorem response_eq_view_of_last {s : State} (h : 1 ≤ s.pipe.length) :
    ∃ x, s.pipe[s.pipe.length - 1]? = some x ∧ s.response = x.view := by
  have hlast : s.pipe.length - 1 < s.pipe.length := by omega
  refine ⟨s.pipe[s.pipe.length - 1], List.getElem?_eq_getElem hlast, ?_⟩
  rw [response_eq, State.lastSlot, List.getLast?_eq_getElem?, List.getElem?_eq_getElem hlast, Option.bind_some]

theorem view_eq_none_of_invalid {x : Slot} (h : x.v = false) : x.view = none := by simp [Slot.view, h]

/-- No valid slot, no response. -/
theorem response_eq_none_of_invalid {s : State} (h : ∀ x ∈ s.pipe, x.v = false) : s.response = none := by
  rw [response_eq, Option.bind_eq_none_iff]
  intro x hx
  exact view_eq_none_of_invalid (h x (List.mem_of_getLast? hx))

/-- Settles O30: the cleared slots are invalid, the last one among them. -/
theorem edgeWithReset : Obligations.EdgeWithReset := by
  intro s p hp hr
  have hinvalid : ∀ x ∈ (resetEdge s).pipe, x.v = false := fun _ => clearSlots_v
  have ht := step_of_reset hp hr
  exact ⟨_, ht, step_pipe_length ht, hinvalid, (response_eq_none_iff _).1 (response_eq_none_of_invalid hinvalid)⟩

theorem resetOn_pipe_invalid {stream : Nat} {x : Slot} (h : x ∈ (State.resetOn stream).pipe) : x.v = false :=
  resetSlots_v h

theorem resetOn_pipe_length (stream : Nat) : (State.resetOn stream).pipe.length = Config.LAT :=
  resetSlots_length stream 0 Config.LAT

theorem one_le_LAT : 1 ≤ Config.LAT := Nat.le_add_left 1 Config.extraStages

/-- Settles O32. -/
theorem resetStateHoldsNoResponse : Obligations.ResetStateHoldsNoResponse := by
  have hinvalid : ∀ x ∈ State.reset.pipe, x.v = false := fun _ => resetOn_pipe_invalid
  have hnone := response_eq_none_of_invalid hinvalid
  exact ⟨resetOn_pipe_length 0, one_le_LAT, hinvalid, (response_eq_none_iff _).1 hnone, hnone⟩

end Sys2Proof.Machine
end

section
/-! Parts side by side (R39): a bank's step replaces one member by the state its own step leads to. -/

namespace Sys2Proof.Machine

/-- With `move` naming the state each step leads to, a bank's step applies it to one member. -/
theorem stepInstance_eq_modify {move : State → State} (hmove : ∀ s, step s = .next (move s)) (k : Nat)
    (bank : List State) : stepInstance k bank = .next (bank.modify k move) := by
  rw [stepInstance, List.modify_eq_set_getElem?]
  cases bank[k]? with
  | none => rfl
  | some s => simp [hmove s]

/-- Settles O42: two members of a bank are changed at two different places. -/
theorem instancesShareNothing : Obligations.InstancesShareNothing := by
  choose move hmove using step_answers_next
  have moved := stepInstance_eq_modify hmove
  constructor
  · intro k bank
    refine ⟨_, moved k bank, List.length_modify _ _ _, fun j hj => List.getElem?_modify_ne _ _ hj.symm, fun s hs => ?_⟩
    exact ⟨move s, hmove s, by rw [List.getElem?_modify_eq, hs]; rfl⟩
  · intro j k bank hjk
    refine ⟨_, _, _, moved j bank, moved k bank, moved k _, ?_⟩
    rw [moved j, List.modify_modify_ne _ _ _ hjk]

end Sys2Proof.Machine
end

section
/-! The slots as a record of the inputs sampled (R26, R29, R30). -/

namespace Sys2Proof.Machine

/-- A slot after a shift is the one shifted in or the one below it before. -/
theorem shiftIn_getElem?_eq_some {y x : Slot} {pipe : List Slot} {k : Nat} (h : (shiftIn y pipe)[k]? = some x) :
    (k = 0 ∧ x = y) ∨ ∃ j, k = j + 1 ∧ pipe[j]? = some x := by
  have hk : k < pipe.length := by
    obtain ⟨hk, -⟩ := List.getElem?_eq_some_iff.1 h
    rwa [shiftIn_length] at hk
  cases k with
  | zero =>
    rw [shiftIn_getElem?_zero y pipe hk] at h
    exact .inl ⟨rfl, (Option.some.inj h).symm⟩
  | succ j =>
    rw [shiftIn_getElem?_succ y pipe j hk] at h
    exact .inr ⟨j, rfl, h⟩

end Sys2Proof.Machine

namespace Sys2Proof.Safety

open Sys2Proof.Machine

theorem requested_eq_some_iff (p : PortInputs) (d : Byte) :
    requested p = some d ↔ p.reqValid = true ∧ d = coreF p.reqOp p.reqA p.reqB := by
  rw [requested, Option.ite_none_right_eq_some, Option.some.injEq, @eq_comm _ d]

theorem requested_eq_none_iff (p : PortInputs) : requested p = none ↔ p.reqValid = false := by
  simp [requested]

theorem view_eq_requested {x : Slot} {p : PortInputs} (hv : x.v = p.reqValid)
    (hd : p.reqValid = true → x.d = coreF p.reqOp p.reqA p.reqB) : x.view = requested p := by
  cases hp : p.reqValid with
  | true => simp [Slot.view, requested, hv, hp, hd hp]
  | false => simp [Slot.view, requested, hv, hp]

/-- Where a slot's content comes from after an edge: a reset cleared it, the edge's own inputs entered it, or it
moved up (R29, R30). -/
theorem slot_after_edge {s t : State} {p : PortInputs} {k : Nat} {x : Slot} (hp : s.presented = .edge p)
    (h : step s = .next t) (hx : t.pipe[k]? = some x) :
    (p.rst = true ∧ x.view = none) ∨ (p.rst = false ∧ k = 0 ∧ x.view = requested p) ∨
      (p.rst = false ∧ ∃ j, k = j + 1 ∧ s.pipe[j]? = some x) := by
  cases hr : p.rst with
  | true =>
    obtain rfl := Host.Outcome.next.inj ((step_of_reset hp hr).symm.trans h)
    exact .inl ⟨rfl, view_eq_none_of_invalid (clearSlots_v (List.mem_of_getElem? hx))⟩
  | false =>
    obtain ⟨t', y, ht', hpipe, hyv, hyd⟩ := step_without_reset hp hr
    obtain rfl := Host.Outcome.next.inj (ht'.symm.trans h)
    rw [hpipe] at hx
    obtain ⟨hk, rfl⟩ | hmoved := shiftIn_getElem?_eq_some hx
    · exact .inr (.inl ⟨rfl, hk, view_eq_requested hyv hyd⟩)
    · exact .inr (.inr ⟨rfl, hmoved⟩)

theorem expectedSlot_cons_of_reset {p : PortInputs} (hr : p.rst = true) (hist : List PortInputs) (k : Nat) :
    expectedSlot (p :: hist) k = none := by
  simp [expectedSlot, hr]

theorem expectedSlot_cons_zero {p : PortInputs} (hr : p.rst = false) (hist : List PortInputs) :
    expectedSlot (p :: hist) 0 = requested p := by
  simp [expectedSlot, hr]

theorem expectedSlot_cons_succ {p : PortInputs} (hr : p.rst = false) (hist : List PortInputs) (k : Nat) :
    expectedSlot (p :: hist) (k + 1) = expectedSlot hist k := by
  simp [expectedSlot, hr]

/-- With nothing sampled, no slot is determined. -/
theorem tracks_nil (s : State) : Tracks [] s := by simp [Tracks]

theorem tracks_after_edge {hist : List PortInputs} {s t : State} {p : PortInputs} (hs : Tracks hist s)
    (hp : s.presented = .edge p) (h : step s = .next t) : Tracks (p :: hist) t := by
  intro k x hx determined
  obtain ⟨hr, hview⟩ | ⟨hr, rfl, hview⟩ | ⟨hr, j, rfl, hj⟩ := slot_after_edge hp h hx
  · rw [hview, expectedSlot_cons_of_reset hr]
  · rw [hview, expectedSlot_cons_zero hr]
  · rw [expectedSlot_cons_succ hr]
    exact hs j x hj (by simpa [hr] using determined)

/-- Settles O35: an edge moves the record on with the slots, a stopped clock moves neither, and after a power cycle
nothing is recorded. -/
theorem stepKeepsSlotHistory : Obligations.StepKeepsSlotHistory := by
  intro hist s t hs h
  match hp : s.presented with
  | .edge p => exact tracks_after_edge hs hp h
  | .stopClock =>
    obtain rfl := Host.Outcome.next.inj ((step_of_stopClock hp).symm.trans h)
    exact hs
  | .powerCycle => exact tracks_nil t

/-- Settles O33: `State.resetOn` holds no response, and neither does what a reset edge makes of any history. -/
theorem invariantsHoldAtReset : Obligations.InvariantsHoldAtReset := by
  have hnone (stream : Nat) (x : Slot) (hx : x ∈ (State.resetOn stream).pipe) : x.view = none :=
    view_eq_none_of_invalid (resetOn_pipe_invalid hx)
  refine ⟨rfl, fun stream => ⟨?_, hnone stream, fun n k x hx _ => ?_⟩⟩
  · rw [State.wf_iff, resetOn_pipe_length]
    exact one_le_LAT
  · rw [List.replicate_succ, expectedSlot_cons_of_reset rfl]
    exact hnone stream x (List.mem_of_getElem? hx)

end Sys2Proof.Safety
end

section
/-! Runs over sampled inputs: what every edge keeps holds in every cycle, and so the outputs are known (R16, R31, R33). -/

namespace Sys2Proof.Safety

open Sys2Proof.Machine

/-- The induction over a run, said once: a relation between the state and a value `a` that each edge moves on by `next`,
kept by every edge and blind to the host's plan, holds in every cycle of the run. -/
theorem atCycle_keeps {α : Type} (next : α → PortInputs → α) (Related : α → State → Prop)
    (plan : ∀ {a s} moves, Related a s → Related a (s.withPlan moves))
    (edge : ∀ {a s t p}, Related a s → s.presented = .edge p → step s = .next t → Related (next a p) t)
    {a : α} {s : State} (h : Related a s) {ins : List PortInputs} {m : Nat} (hm : m ≤ ins.length) :
    ∃ t, atCycle s ins m = .next t ∧ Related ((ins.take m).foldl next a) t := by
  induction m generalizing a s ins with
  | zero => exact ⟨_, atCycle_zero s ins, plan _ h⟩
  | succ m ih =>
    cases ins with
    | nil => simp at hm
    | cons p ins =>
      obtain ⟨t, ht⟩ := step_answers_next (s.withPlan ((p :: ins).map .edge))
      rw [atCycle_succ ht]
      exact ih (edge (plan _ h) (presented_cons s _ _) ht) (Nat.le_of_succ_le_succ hm)

/-- In cycle `m`, the slots hold what the `m` inputs sampled since the start say. -/
theorem atCycle_tracks (s : State) {ins : List PortInputs} {m : Nat} (hm : m ≤ ins.length) :
    ∃ t, atCycle s ins m = .next t ∧ t.pipe.length = s.pipe.length ∧ Tracks (ins.take m).reverse t := by
  have run := atCycle_keeps (fun hist p => p :: hist) (fun hist t => t.pipe.length = s.pipe.length ∧ Tracks hist t)
    (fun _ h => h)
    (fun ⟨hlen, htracks⟩ hp ht => ⟨(step_pipe_length ht).trans hlen, tracks_after_edge htracks hp ht⟩)
    ⟨rfl, tracks_nil s⟩ hm
  rwa [List.foldl_flip_cons_eq_append', List.append_nil] at run

theorem any_rst_eq_false_iff (ps : List PortInputs) : ps.any PortInputs.rst = false ↔ ∀ q ∈ ps, q.rst = false := by
  simp

/-- The outputs of cycle `m` answer the inputs, once `LAT` edges have passed or a reset has been sampled. -/
theorem response_atCycle {s : State} {ins : List PortInputs} {m : Nat} (hs : 1 ≤ s.pipe.length) (hm : m ≤ ins.length)
    (determined : s.pipe.length ≤ m ∨ ∃ q ∈ ins.take m, q.rst = true) :
    ∃ t, atCycle s ins m = .next t ∧ t.response = expectedSlot (ins.take m).reverse (s.pipe.length - 1) := by
  obtain ⟨t, ht, hlen, htracks⟩ := atCycle_tracks s hm
  obtain ⟨x, hx, hresponse⟩ := response_eq_view_of_last (hlen ▸ hs)
  rw [hlen] at hx
  refine ⟨t, ht, hresponse.trans (htracks _ x hx ?_)⟩
  rw [List.any_reverse, List.any_eq_true, List.length_reverse, List.length_take_of_le hm]
  exact determined.imp_left fun _ => by omega

/-- A slot that should hold a response has had its command sampled. -/
theorem lt_length_of_expectedSlot_eq_some {hist : List PortInputs} {k : Nat} {d : Byte}
    (h : expectedSlot hist k = some d) : k < hist.length := by
  unfold expectedSlot at h
  split at h
  · cases h
  · obtain ⟨p, hp, -⟩ := Option.bind_eq_some_iff.1 h
    exact (List.getElem?_eq_some_iff.1 hp).1

/-- What the last of `lat` slots should hold in cycle `n + lat`, in terms of the inputs in the order sampled. -/
theorem expectedSlot_last {ins : List PortInputs} {n lat : Nat} (hlat : 1 ≤ lat) (hn : n + lat ≤ ins.length) :
    expectedSlot (ins.take (n + lat)).reverse (lat - 1) =
      if (window ins n lat).any PortInputs.rst then none else ins[n]?.bind requested := by
  have hlength : (ins.take (n + lat)).length = n + lat := List.length_take_of_le hn
  have hwindow : (ins.take (n + lat)).reverse.take (lat - 1 + 1) = (window ins n lat).reverse := by
    rw [Nat.sub_add_cancel hlat, List.take_reverse, hlength, Nat.add_sub_cancel, List.drop_take,
      Nat.add_sub_cancel_left, window]
  have hcommand : (ins.take (n + lat)).reverse[lat - 1]? = ins[n]? := by
    rw [List.getElem?_reverse (by omega), hlength, List.getElem?_take_of_lt (by omega)]
    congr 1
    omega
  rw [expectedSlot, hwindow, hcommand, List.any_reverse]

/-- The outputs of cycle `n + LAT`: the answer to cycle `n`, unless a reset was sampled in between (R31). -/
theorem response_after_latency {s : State} {ins : List PortInputs} {n : Nat} (hs : 1 ≤ s.pipe.length)
    (hn : n + s.pipe.length ≤ ins.length) :
    ∃ t, atCycle s ins (n + s.pipe.length) = .next t ∧
      t.response = if (window ins n s.pipe.length).any PortInputs.rst then none else ins[n]?.bind requested := by
  obtain ⟨t, ht, hresponse⟩ := response_atCycle hs hn (.inl (Nat.le_add_left _ n))
  exact ⟨t, ht, hresponse.trans (expectedSlot_last hs hn)⟩

/-- Settles O37. -/
theorem latencyAndDiscard : Obligations.LatencyAndDiscard := by
  intro s ins n p hs hp hv hn
  obtain ⟨t, ht, hresponse⟩ := response_after_latency hs hn
  refine ⟨t, ht, fun noReset => ?_, fun someReset => ?_⟩
  · rw [(any_rst_eq_false_iff _).2 noReset, if_neg Bool.false_ne_true, hp, Option.bind_some,
      (requested_eq_some_iff p _).2 ⟨hv, rfl⟩] at hresponse
    exact (response_eq_some_iff t _).1 hresponse
  · rw [List.any_eq_true.2 someReset, if_pos rfl] at hresponse
    exact (response_eq_none_iff t).1 hresponse

/-- Settles O38: a slot that holds a response has had its command sampled, so cycle `m` is at least `LAT` and the
response is the answer to cycle `m - LAT`. -/
theorem everyResponseHasItsCommand : Obligations.EveryResponseHasItsCommand := by
  intro s ins m hs hm determined
  obtain ⟨t, ht, hresponse⟩ := response_atCycle hs hm determined
  refine ⟨t, ht, fun d hd => ?_⟩
  rw [hd] at hresponse
  have hlat : s.pipe.length ≤ m := by
    have hsampled := lt_length_of_expectedSlot_eq_some hresponse.symm
    rw [List.length_reverse, List.length_take_of_le hm] at hsampled
    omega
  obtain ⟨n, rfl⟩ := Nat.exists_eq_add_of_le' hlat
  rw [expectedSlot_last hs hm] at hresponse
  rw [Nat.add_sub_cancel]
  split at hresponse
  · cases hresponse
  next noReset =>
    obtain ⟨p, hp, hrequested⟩ := Option.bind_eq_some_iff.1 hresponse.symm
    obtain ⟨hv, hF⟩ := (requested_eq_some_iff p d).1 hrequested
    exact ⟨hlat, (any_rst_eq_false_iff _).1 (Bool.not_eq_true _ ▸ noReset), p, hp, hv, hF⟩

end Sys2Proof.Safety
end

section
/-! Conformance at the ports (R27). -/

namespace Sys2Proof.Safety

open Sys2Proof.Machine

/-- Without a reset, the outputs in cycle `m` answer the inputs of cycle `m - LAT` (R151). -/
theorem response_without_reset {s : State} {ins : List PortInputs} {m : Nat} {p : PortInputs} (hs : 1 ≤ s.pipe.length)
    (noReset : ∀ q ∈ ins, q.rst = false) (hlat : s.pipe.length ≤ m) (hm : m ≤ ins.length)
    (hp : ins[m - s.pipe.length]? = some p) : ∃ t, atCycle s ins m = .next t ∧ t.response = requested p := by
  obtain ⟨n, rfl⟩ := Nat.exists_eq_add_of_le' hlat
  obtain ⟨t, ht, hresponse⟩ := response_after_latency hs hm
  have hwindow : (window ins n s.pipe.length).any PortInputs.rst = false :=
    (any_rst_eq_false_iff _).2 fun q hq => noReset q (List.mem_of_mem_drop (List.mem_of_mem_take hq))
  rw [Nat.add_sub_cancel] at hp
  rw [hwindow, if_neg Bool.false_ne_true, hp, Option.bind_some] at hresponse
  exact ⟨t, ht, hresponse⟩

/-- A response that the inputs `p` ask for, read at the two output ports. -/
theorem outputs_of_response_eq_requested {t : State} {p : PortInputs} (h : t.response = requested p) :
    t.rspValid = p.reqValid ∧ (p.reqValid = true → t.rspData = coreF p.reqOp p.reqA p.reqB) := by
  cases hv : p.reqValid with
  | true =>
    rw [(requested_eq_some_iff p _).2 ⟨hv, rfl⟩, response_eq_some_iff] at h
    exact ⟨h.1, fun _ => h.2⟩
  | false =>
    rw [(requested_eq_none_iff p).2 hv, response_eq_none_iff] at h
    exact ⟨h, nofun⟩

/-- A conforming part answers without ever having been reset. -/
theorem conforms_answers {lat : Nat} (hlat : 1 ≤ lat) {I : Impl} (hI : Conforms lat I) (r : I.Regs)
    {ins : List PortInputs} {m : Nat} {p : PortInputs} (noReset : ∀ q ∈ ins, q.rst = false) (hm : lat ≤ m)
    (hlen : m ≤ ins.length) (hp : ins[m - lat]? = some p) :
    I.rspValid (I.after r (ins.take m)) = p.reqValid ∧
      (p.reqValid = true → I.rspData (I.after r (ins.take m)) = coreF p.reqOp p.reqA p.reqB) := by
  obtain ⟨s, rfl, agree⟩ := hI r ins
  obtain ⟨t, ht, hvalid, hdata⟩ := agree m hlen
  obtain ⟨t', ht', hresponse⟩ := response_without_reset hlat noReset hm hlen hp
  obtain rfl := Host.Outcome.next.inj (ht.symm.trans ht')
  obtain ⟨hv, hd⟩ := outputs_of_response_eq_requested hresponse
  exact ⟨hvalid.trans hv, fun hpv => (hdata (hv.trans hpv)).trans (hd hpv)⟩

/-- The part that is dead until its first reset shows no response before it. -/
theorem deadUntilReset_rspValid {lat : Nat} {ins : List PortInputs} (noReset : ∀ q ∈ ins, q.rst = false)
    (regs : List (Option Instr)) :
    (deadUntilReset lat).rspValid ((deadUntilReset lat).after (false, regs) ins) = false := by
  induction ins generalizing regs with
  | nil => rfl
  | cons p ins ih =>
    have hr : p.rst = false := noReset p List.mem_cons_self
    have hnext : (deadUntilReset lat).next (false, regs) p = (false, (lateCompute lat).next regs p) :=
      congrArg (fun live => (live, (lateCompute lat).next regs p)) hr
    calc (deadUntilReset lat).rspValid ((deadUntilReset lat).after (false, regs) (p :: ins))
        = (deadUntilReset lat).rspValid ((deadUntilReset lat).after (false, (lateCompute lat).next regs p) ins) :=
          congrArg (fun r => (deadUntilReset lat).rspValid ((deadUntilReset lat).after r ins)) hnext
      _ = false := ih (fun q hq => noReset q (List.mem_cons_of_mem p hq)) _

/-- `LAT` commands presented from cycle 0 on are what that part fails to answer. -/
theorem not_conforms_deadUntilReset {lat : Nat} (hlat : 1 ≤ lat) : ¬ Conforms lat (deadUntilReset lat) := by
  intro hdead
  have noReset : ∀ q ∈ List.replicate lat (PortInputs.request 0 5 12), q.rst = false := fun q hq => by
    rw [List.eq_of_mem_replicate hq]; rfl
  have hfirst : (List.replicate lat (PortInputs.request 0 5 12))[lat - lat]? = some (.request 0 5 12) := by
    rw [Nat.sub_self, List.getElem?_replicate_of_lt hlat]
  obtain ⟨hanswered, -⟩ :=
    conforms_answers hlat hdead (false, []) noReset le_rfl List.length_replicate.ge hfirst
  rw [List.take_of_length_le List.length_replicate.le, deadUntilReset_rspValid noReset] at hanswered
  cases hanswered

/-- Settles O46. -/
theorem conformanceCoversRunsWithoutReset : Obligations.ConformanceCoversRunsWithoutReset := fun _ hlat =>
  ⟨fun _ r _ _ _ hI noReset hm hlen hp => conforms_answers hlat hI r noReset hm hlen hp,
    not_conforms_deadUntilReset hlat⟩

/-- The block's slots hold the results of the commands in these registers of `lateCompute`. -/
def SlotsHoldResults (regs : List (Option Instr)) (s : State) : Prop :=
  ∀ (k : Nat) (x : Slot), s.pipe[k]? = some x → x.view = regs[k]?.join.map result

/-- What enters register 0 of `lateCompute` has the result that enters `pipe[0]`. -/
theorem requested_eq_map_result (p : PortInputs) :
    requested p = (if p.reqValid then some (decode p.word) else none).map result := by
  rw [requested]
  split_ifs
  · rw [Option.map_some, result_decode_word]
  · rfl

theorem lateCompute_next_of_reset (lat : Nat) (regs : List (Option Instr)) {p : PortInputs} (hr : p.rst = true) :
    (lateCompute lat).next regs p = List.replicate lat none := if_pos hr

theorem lateCompute_next_without_reset (lat : Nat) (regs : List (Option Instr)) {p : PortInputs} (hr : p.rst = false) :
    (lateCompute lat).next regs p = ((if p.reqValid then some (decode p.word) else none) :: regs).take lat :=
  if_neg (by simp [hr])

/-- An edge moves `lateCompute` and the block on alike. -/
theorem slotsHoldResults_after_edge {regs : List (Option Instr)} {s t : State} {p : PortInputs}
    (hs : SlotsHoldResults regs s) (hp : s.presented = .edge p) (h : step s = .next t) :
    SlotsHoldResults ((lateCompute s.pipe.length).next regs p) t := by
  intro k x hx
  have hk : k < s.pipe.length := step_pipe_length h ▸ (List.getElem?_eq_some_iff.1 hx).1
  obtain ⟨hr, hview⟩ | ⟨hr, rfl, hview⟩ | ⟨hr, j, rfl, hj⟩ := slot_after_edge hp h hx
  · rw [lateCompute_next_of_reset _ _ hr, List.getElem?_replicate_of_lt hk, hview]
    rfl
  · rw [lateCompute_next_without_reset _ _ hr, List.getElem?_take_of_lt hk, hview, requested_eq_map_result]
    rfl
  · rw [lateCompute_next_without_reset _ _ hr, List.getElem?_take_of_lt hk, List.getElem?_cons_succ]
    exact hs j x hj

/-- A slot that holds this response, or none. -/
def slotOf : Option Byte → Slot
  | some d => ⟨true, d⟩
  | none => ⟨false, 0x00⟩

@[simp] theorem view_slotOf (r : Option Byte) : (slotOf r).view = r := by cases r <;> rfl

/-- The power-up contents of `lat` slots that match these power-up registers of `lateCompute`. -/
def powerUpMatching (lat : Nat) (regs : List (Option Instr)) : State :=
  { pipe := (List.range lat).map fun k => slotOf (regs[k]?.join.map result), host := [], draw := 0, stream := 0 }

theorem powerUpMatching_length (lat : Nat) (regs : List (Option Instr)) :
    (powerUpMatching lat regs).pipe.length = lat := by
  simp [powerUpMatching]

theorem slotsHoldResults_powerUpMatching (lat : Nat) (regs : List (Option Instr)) :
    SlotsHoldResults regs (powerUpMatching lat regs) := by
  intro k x hx
  rw [powerUpMatching, List.getElem?_map, Option.map_eq_some_iff] at hx
  obtain ⟨i, hi, rfl⟩ := hx
  obtain ⟨-, rfl⟩ := List.getElem?_eq_some_iff.1 hi
  rw [view_slotOf, List.getElem_range]

theorem response_of_slotsHoldResults {regs : List (Option Instr)} {t : State} (ht : 1 ≤ t.pipe.length)
    (h : SlotsHoldResults regs t) : t.response = regs[t.pipe.length - 1]?.join.map result := by
  obtain ⟨x, hx, hresponse⟩ := response_eq_view_of_last ht
  rw [hresponse, h _ x hx]

theorem lateCompute_rspValid (lat : Nat) (regs : List (Option Instr)) :
    (lateCompute lat).rspValid regs = (regs[lat - 1]?.join.map result).isSome :=
  Option.isSome_map.symm

theorem lateCompute_rspData {lat : Nat} {regs : List (Option Instr)} {d : Byte}
    (h : regs[lat - 1]?.join.map result = some d) : (lateCompute lat).rspData regs = d := by
  obtain ⟨i, hi, rfl⟩ := Option.map_eq_some_iff.1 h
  simp [lateCompute, hi]

/-- Settles O45: from matching power-up contents on, the registers and the slots stand for the same responses. -/
theorem lateComputeConforms : Obligations.LateComputeConforms := by
  intro lat hlat regs ins
  refine ⟨powerUpMatching lat regs, powerUpMatching_length lat regs, fun m hm => ?_⟩
  obtain ⟨t, ht, hlen, hmatch⟩ := atCycle_keeps (lateCompute lat).next
    (fun regs t => t.pipe.length = lat ∧ SlotsHoldResults regs t) (fun _ h => h)
    (fun ⟨hlen, hmatch⟩ hp ht =>
      ⟨(step_pipe_length ht).trans hlen, hlen ▸ slotsHoldResults_after_edge hmatch hp ht⟩)
    ⟨powerUpMatching_length lat regs, slotsHoldResults_powerUpMatching lat regs⟩ hm
  have hresponse := response_of_slotsHoldResults (hlen ▸ hlat) hmatch
  rw [hlen] at hresponse
  refine ⟨t, ht, ?_, fun hvalid => ?_⟩
  · rw [rspValid_eq_isSome, hresponse]
    exact lateCompute_rspValid lat _
  · rw [(response_eq_some_iff t _).2 ⟨hvalid, rfl⟩] at hresponse
    exact lateCompute_rspData hresponse.symm

end Sys2Proof.Safety
end

section
/-! Words and commands stand for each other, in both directions (R50, R51, R54). -/

namespace Sys2Proof

/-- The two bits of `op` have four values (R52). -/
theorem opCode_cases (op : OpCode) : op = 0b00 ∨ op = 0b01 ∨ op = 0b10 ∨ op = 0b11 := by
  revert op
  decide

theorem decode_commandWord (op : OpCode) (a b : Byte) : decode (commandWord op a b) = decodeFields op a b := by
  rw [decode, opField_commandWord, aField_commandWord, bField_commandWord]

/-- Selecting a command by its three fields loses none of them: the last arm is taken by code `0b11` alone. -/
theorem encode_decodeFields (op : OpCode) (a b : Byte) : encode (decodeFields op a b) = commandWord op a b := by
  obtain rfl | rfl | rfl | rfl := opCode_cases op <;> rfl

/-- The three fields are all of a word (R50). -/
theorem commandWord_fields (c : CommandWord) : commandWord (opField c) (aField c) (bField c) = c := by
  unfold commandWord opField aField bField
  rw [BitVec.extractLsb'_append_extractLsb'_eq_extractLsb' (show 16 = 8 + 8 from rfl),
    BitVec.extractLsb'_append_extractLsb'_eq_extractLsb' (show 8 = 0 + 8 from rfl), BitVec.extractLsb'_eq_self]

theorem encode_decode (c : CommandWord) : encode (decode c) = c := by
  rw [decode, encode_decodeFields, commandWord_fields]

/-- A number that 18 bits can hold is no word to reject (R54). -/
theorem decodeTableWord_of_lt {w : Nat} (hw : w < 2 ^ 18) :
    decodeTableWord 18 w = some (decode (BitVec.ofNat 18 w)) := by
  rw [decodeTableWord, Nat.mod_eq_of_lt hw, decodeNat, if_pos hw]

theorem decodeTableWord_toNat (c : CommandWord) : decodeTableWord 18 c.toNat = some (decode c) := by
  rw [decodeTableWord_of_lt c.isLt, BitVec.ofNat_toNat, BitVec.setWidth_eq]

end Sys2Proof

namespace Sys2Proof.Machine

/-- The ports that present a command carry its word (R50, R53). -/
theorem word_command (i : Instr) : (PortInputs.command i).word = encode i := rfl

/-- Settles O3. -/
theorem decodeOfEncodeIsTheCommand : Obligations.DecodeOfEncodeIsTheCommand := by
  intro i _
  exact ⟨decode_encode i, by rw [decodeTableWord_toNat, decode_encode], word_command i⟩

/-- Settles O4. -/
theorem encodeOfDecodeIsTheWord : Obligations.EncodeOfDecodeIsTheWord := fun c =>
  ⟨encode_decode c, wellFormed_all _⟩

/-- Settles O2, by reading each word's three fields. -/
theorem decodesTheSpecsWords : Obligations.DecodesTheSpecsWords := by
  unfold Obligations.DecodesTheSpecsWords
  decide

end Sys2Proof.Machine
end

section
/-! The opcode table (`30_encoding.md` section 6): its mask keeps the operation code, and no row asks for more. -/

namespace Sys2Proof

/-- The one mask of the table keeps `CMD[17:16]` and drops both operands. -/
theorem and_opMask (c : CommandWord) : c &&& 0x30000 = commandWord (opField c) 0 0 := by
  have hcode : opField c &&& 0b11 = opField c := BitVec.and_allOnes
  calc c &&& 0x30000
      = commandWord (opField c) (aField c) (bField c) &&& commandWord 0b11 0 0 := by rw [commandWord_fields]; rfl
    _ = commandWord (opField c &&& 0b11) (aField c &&& 0) (bField c &&& 0) := by
        rw [commandWord, commandWord, BitVec.and_append, BitVec.and_append, commandWord]
    _ = commandWord (opField c) 0 0 := by rw [hcode]; simp

/-- Whether a row is a word's depends on the word's operation code alone. -/
theorem holds_eq_of_mem {r : OpcodeRow} (hr : r ∈ opcodeTable) (c : CommandWord) :
    r.holds c = decide (commandWord (opField c) 0 0 = r.pattern) := by
  have hmask : ∀ row ∈ opcodeTable, row.mask = 0x30000 := by decide
  rw [OpcodeRow.holds, hmask r hr, and_opMask]

/-- Each operation code has one row, and that row names the commands of the code. -/
theorem unique_row_of_opCode (op : OpCode) (a b : Byte) :
    ∃ r, opcodeTable.filter (fun row => decide (commandWord op 0 0 = row.pattern)) = [r] ∧
      r.mnemonic = (decodeFields op a b).mnemonic := by
  obtain rfl | rfl | rfl | rfl := opCode_cases op
  · exact ⟨⟨"ADD", 0x30000, 0x00000⟩, by decide, rfl⟩
  · exact ⟨⟨"SUB", 0x30000, 0x10000⟩, by decide, rfl⟩
  · exact ⟨⟨"MUL", 0x30000, 0x20000⟩, by decide, rfl⟩
  · exact ⟨⟨"INV", 0x30000, 0x30000⟩, by decide, rfl⟩

/-- Settles O5. -/
theorem everyWordMatchesExactlyOneRow : Obligations.EveryWordMatchesExactlyOneRow := by
  intro c
  rw [List.filter_congr fun r hr => holds_eq_of_mem hr c]
  exact unique_row_of_opCode (opField c) (aField c) (bField c)

end Sys2Proof
end

section
/-! Presented words run, to the result that the operation code selects (R28, R52, R54). -/

namespace Sys2Proof.Machine

/-- A number that decodes is presented as the command it stands for, and that command runs (R21, R54). -/
theorem step_withFetchWord {nbits w : Nat} {i : Instr} (h : decodeTableWord nbits w = some i) (s : State) :
    step (s.withFetchWord nbits w) = .next (acceptEdge (result i) (s.drive (.edge (.command i)))) := by
  rw [State.withFetchWord, h, step_of_request (presented_drive s _) rfl rfl, word_command, decode_encode, exec_eq]

/-- Settles O6: each number's step is an acceptance edge; and the result of INV does not read `b`. -/
theorem everyCommandWordRuns : Obligations.EveryCommandWordRuns := by
  refine ⟨fun w s hw => ?_, fun a b b' s => ?_⟩
  · have hdecode := decodeTableWord_of_lt hw
    exact ⟨_, _, hdecode, step_withFetchWord hdecode s, shiftIn_length _ _, shiftIn_getElem?_zero _ _⟩
  · rw [exec_eq, exec_eq, decode_commandWord, decode_commandWord, result_decodeFields, result_decodeFields, coreF_inv,
      coreF_inv]

/-- The command `{op, a, b}` completes with `F(op, a, b)` (R52). -/
theorem completesWith_coreF (op : OpCode) (a b : Byte) (s : State) :
    Safety.CompletesWith (decode (commandWord op a b)) (coreF op a b) s := by
  rw [decode_commandWord, ← result_decodeFields]
  exact completesWith_result _ s

/-- Settles O7: the first four clauses are the last one at the four codes. -/
theorem coreFunctionSelectedByOpcode : Obligations.CoreFunctionSelectedByOpcode := fun a b s =>
  ⟨completesWith_coreF 0b00 a b s, completesWith_coreF 0b01 a b s, completesWith_coreF 0b10 a b s,
    completesWith_coreF 0b11 a b s, fun op => completesWith_coreF op a b s⟩

end Sys2Proof.Machine
end

section
/-! The pseudo-instructions (R59): multiplication by `0x01` and by `0x02`, read as polynomials. -/

namespace Sys2Proof

open Polynomial

/-- A bit vector is known by its polynomial (R12). -/
theorem polyOf_injective {n : Nat} : Function.Injective (polyOf : BitVec n → (ZMod 2)[X]) := by
  intro v w h
  refine BitVec.eq_of_getLsbD_eq fun i _ => ?_
  have hcoeff := congrArg (fun q => q.coeff i) h
  simp only [polyOf_coeff] at hcoeff
  cases hv : v.getLsbD i <;> cases hw : w.getLsbD i <;> simp_all

/-- A byte is its own remainder modulo p(x). -/
theorem polyOf_modByMonic (v : Byte) : polyOf v %ₘ reducingPoly = polyOf v :=
  (modByMonic_eq_self_iff reducingPoly_monic).2 (reducingPoly_degree ▸ polyOf_degree_lt v)

theorem polyOf_one : polyOf (0x01 : Byte) = 1 := by simp [polyOf]

theorem polyOf_two : polyOf (0x02 : Byte) = X := by simp [polyOf, Finset.sum_range_succ]

end Sys2Proof

namespace Sys2Proof.Machine

open Polynomial

/-- MUL is known by its polynomial modulo p(x). -/
theorem eq_mul8_of_polyOf_modByMonic {r a b : Byte}
    (h : polyOf r %ₘ reducingPoly = (polyOf a * polyOf b) %ₘ reducingPoly) : r = mul8 a b := by
  apply polyOf_injective
  rw [polyOf_mul8, ← h, polyOf_modByMonic]

@[simp] theorem mul8_one_left (a : Byte) : mul8 0x01 a = a :=
  (eq_mul8_of_polyOf_modByMonic (by rw [polyOf_one, one_mul])).symm

/-- Truncating the shifted value and folding bit 7 back is one reduction step on the untruncated value (R81, R84). -/
theorem xtime_eq_reduceBit (x : Byte) : xtime x = (reduceBit (x.setWidth 15 <<< 1) 8).setWidth 8 := by
  have hbit : bit (x.setWidth 15 <<< 1) 8 = bit x 7 := by simp [bit]
  have hshift : (x.setWidth 15 <<< 1).setWidth 8 = x <<< 1 := by
    ext i hi
    simp
  rw [xtime, reduceBit_eq, hbit, and_rep8]
  cases bit x 7
  · rw [if_neg Bool.false_ne_true, if_neg Bool.false_ne_true, hshift]
    exact BitVec.xor_zero
  · rw [if_pos rfl, if_pos rfl, BitVec.setWidth_xor, hshift]
    rfl

/-- `xtime` multiplies by `x` modulo p(x) (R84). -/
theorem polyOf_xtime (x : Byte) : polyOf (xtime x) = (polyOf x * X) %ₘ reducingPoly := by
  have hfits (k : Nat) (hk : 15 ≤ k + 1) : (x.setWidth 15).getLsbD k = false := by
    rw [BitVec.getLsbD_setWidth, BitVec.getLsbD_of_ge x k (by omega), Bool.and_false]
  have hclear : ClearFrom (x.setWidth 15 <<< 1) 9 := by
    intro j hj
    rw [BitVec.getLsbD_shiftLeft, BitVec.getLsbD_setWidth, BitVec.getLsbD_of_ge x (j - 1) (by omega), Bool.and_false,
      Bool.and_false]
  calc polyOf (xtime x)
      = polyOf (xtime x) %ₘ reducingPoly := (polyOf_modByMonic _).symm
    _ = polyOf (reduceBit (x.setWidth 15 <<< 1) 8) %ₘ reducingPoly := by
        rw [xtime_eq_reduceBit, polyOf_setWidth _ (reduceBit_clearFrom (by decide) hclear)]
    _ = polyOf (x.setWidth 15 <<< 1) %ₘ reducingPoly := polyOf_reduceBit_modByMonic _ (by decide)
    _ = (polyOf x * X) %ₘ reducingPoly := by
        rw [polyOf_shiftLeft _ 1 hfits, polyOf_setWidth x fun k hk => BitVec.getLsbD_of_ge x k (by omega), pow_one]

theorem mul8_two_right (x : Byte) : mul8 x 0x02 = xtime x := by
  apply polyOf_injective
  rw [polyOf_mul8, polyOf_two, polyOf_xtime]

theorem pow8_two (a : Byte) : pow8 a 2 = mul8 a a := by
  rw [pow8, pow8, pow8, mul8_one_left]

/-- Every value of the reference chain of `0x01` is `0x01` (R103). -/
theorem invRounds_one (n : Nat) : invRounds 0x01 n = 0x01 := by
  induction n with
  | zero => rfl
  | succ n ih => rw [invRounds, ih, sqr8, mul8_one_left, mul8_one_left]

theorem inv8_one : inv8 0x01 = 0x01 := by rw [inv8, invRounds_one, sqr8, mul8_one_left]

theorem add8_zero_right (a : Byte) : add8 a 0x00 = a := BitVec.xor_zero

/-- A command completes with whatever byte its result is shown to be. -/
theorem completesWith_of_result_eq (i : Instr) {r : Byte} (h : result i = r) (s : State) : Safety.CompletesWith i r s :=
  h ▸ completesWith_result i s

/-- Settles O44: each expansion is read off the table, and its result is the one its command is shown to have. -/
theorem pseudoInstructionResults : Obligations.PseudoInstructionResults := fun a s =>
  ⟨rfl, completesWith_of_result_eq (.mul a a) (pow8_two a).symm s,
    rfl, completesWith_of_result_eq (.mul a 0x02) (mul8_two_right a) s,
    rfl, completesWith_of_result_eq (.add a 0x00) (add8_zero_right a) s,
    rfl, completesWith_of_result_eq (.add 0x00 0x00) (add8_zero_right 0x00) s,
    ⟨0x00, rfl⟩, completesWith_of_result_eq (.inv 0x01 0x00) inv8_one s⟩

end Sys2Proof.Machine
end

section
/-! The XOR unit (`40_add_sub.md`): the laws of addition, and subtraction as addition under another code. -/

namespace Sys2Proof.Machine

/-- No carry: each bit of the sum reads its own two operand bits alone (R70, R77). -/
theorem add8_getLsbD (a b : Byte) (i : Nat) : (add8 a b).getLsbD i = (a.getLsbD i ^^ b.getLsbD i) :=
  BitVec.getLsbD_xor

theorem add8_self (a : Byte) : add8 a a = 0x00 := BitVec.xor_self

theorem add8_comm (a b : Byte) : add8 a b = add8 b a := BitVec.xor_comm a b

theorem add8_assoc (a b c : Byte) : add8 (add8 a b) c = add8 a (add8 b c) := BitVec.xor_assoc a b c

theorem add8_zero_left (a : Byte) : add8 0x00 a = a := (add8_comm 0x00 a).trans (add8_zero_right a)

/-- ADD adds coefficient by coefficient, modulo 2 (R12, R70). -/
theorem polyOf_add8 (a b : Byte) : polyOf (add8 a b) = polyOf a + polyOf b := polyOf_xor a b

/-- Settles O13. -/
theorem addIsPolynomialAddition : Obligations.AddIsPolynomialAddition := fun a b c =>
  ⟨⟨add8_zero_right a, add8_zero_left a⟩, add8_self a, add8_comm a b, add8_assoc a b c, polyOf_add8 a b⟩

/-- The required invariant of R72: the two operations are one function. -/
theorem sub8_eq_add8 (a b : Byte) : sub8 a b = add8 a b := rfl

theorem exec_sub_eq_exec_add (a b : Byte) (s : State) : exec (.sub a b) s = exec (.add a b) s := by
  rw [exec_eq, exec_eq, result, result, sub8_eq_add8]

/-- ADD completes with whatever byte the sum is shown to be. -/
theorem completesWith_add {a b r : Byte} (h : add8 a b = r) (s : State) : Safety.CompletesWith (.add a b) r s :=
  completesWith_of_result_eq (.add a b) h s

/-- SUB completes with whatever byte the SUM is shown to be (R72), so the corner cases of ADD are those of SUB. -/
theorem completesWith_sub {a b r : Byte} (h : add8 a b = r) (s : State) : Safety.CompletesWith (.sub a b) r s :=
  completesWith_of_result_eq (.sub a b) ((sub8_eq_add8 a b).trans h) s

/-- Settles O8: the encoding is read back, and each corner case is a law of addition. -/
theorem addIsBitwiseXor : Obligations.AddIsBitwiseXor := fun a b s =>
  ⟨decode_encode (.add a b), rfl, completesWith_add (add8_self a) s, completesWith_add (add8_zero_right a) s,
    completesWith_add (add8_self 0xFF) s, completesWith_add (add8_zero_right 0xFF) s, completesWith_add (by decide) s,
    completesWith_add rfl s, fun i _ => add8_getLsbD a b i⟩

/-- Settles O9: the encoding is read back, and each corner case is a law of addition carried over by R72. -/
theorem subIsBitwiseXor : Obligations.SubIsBitwiseXor := by
  intro a b s
  have hcomm : sub8 a b = sub8 b a := by rw [sub8_eq_add8, sub8_eq_add8, add8_comm]
  have hbits (i : Nat) : (sub8 a b).getLsbD i = (a.getLsbD i ^^ b.getLsbD i) := by rw [sub8_eq_add8, add8_getLsbD]
  exact ⟨decode_encode (.sub a b), rfl, completesWith_sub (add8_self a) s, completesWith_sub (add8_zero_right a) s,
    completesWith_sub (add8_zero_left b) s, completesWith_sub (add8_self 0xFF) s,
    completesWith_sub (add8_zero_right 0xFF) s, completesWith_sub (by decide) s, hcomm, completesWith_sub rfl s,
    fun i _ => hbits i⟩

/-- No two commands share a word (R50, R51). -/
theorem encode_injective : Function.Injective encode := Function.LeftInverse.injective decode_encode

/-- Settles O10: one function under two codes, and a word stands for one command only. -/
theorem subEqualsAddUnderItsOwnCode : Obligations.SubEqualsAddUnderItsOwnCode := by
  intro a b
  refine ⟨exec_sub_eq_exec_add a b, sub8_eq_add8 a b, fun a' b' => ⟨?_, ?_⟩⟩
  · exact encode_injective.ne nofun
  · rw [decode_encode]
    exact nofun

end Sys2Proof.Machine
end

section
/-! The carry-less product bit by bit (R80). -/

namespace Sys2Proof.Machine

/-- A bit of an exclusive-or accumulated over a list is the exclusive-or of the terms' bits. -/
theorem getLsbD_foldl_xor {α : Type} {n : Nat} (f : α → BitVec n) (k : Nat) (l : List α) (start : BitVec n) :
    (l.foldl (fun p i => p ^^^ f i) start).getLsbD k = l.foldl (fun x i => x ^^ (f i).getLsbD k) (start.getLsbD k) := by
  induction l generalizing start with
  | nil => rfl
  | cons i l ih => rw [List.foldl_cons, ih, BitVec.getLsbD_xor, List.foldl_cons]

theorem getLsbD_and_rep8 (v : Byte) (c : Bool) (k : Nat) : (v &&& rep8 c).getLsbD k = (c && bit v k) := by
  rw [and_rep8]
  cases c
  · exact BitVec.getLsbD_zero
  · rfl

theorem clmul8_comm (a b : Byte) : clmul8 a b = clmul8 b a := by
  apply polyOf_injective
  rw [polyOf_clmul8, polyOf_clmul8, mul_comm]

/-- Bit `k` of one masked, shifted copy is one term of R80's bit equation. -/
theorem maskedShift_getLsbD (a b : Byte) (i : Nat) {k : Nat} (hk : k < 15) :
    ((b &&& rep8 (bit a i)).setWidth 15 <<< i).getLsbD k =
      (decide (i ≤ k ∧ k - i ≤ 7) && bit a i && bit b (k - i)) := by
  rw [BitVec.getLsbD_shiftLeft, BitVec.getLsbD_setWidth, getLsbD_and_rep8, decide_eq_true hk,
    decide_eq_true (Nat.lt_of_le_of_lt (Nat.sub_le k i) hk)]
  by_cases hik : i ≤ k
  · by_cases hwidth : k - i ≤ 7
    · simp [hik, hwidth]
    · have hout : bit b (k - i) = false := BitVec.getLsbD_of_ge b _ (by omega)
      simp [hout]
  · simp [hik, Nat.lt_of_not_le hik]

/-- The bit equations of R80: the copies are those of `b`, selected by the bits of `a`. -/
theorem clmul8_getLsbD (a b : Byte) {k : Nat} (hk : k < 15) : (clmul8 a b).getLsbD k = clmulBit a b k := by
  rw [clmul8_comm, clmul8, getLsbD_foldl_xor, BitVec.ofNat_eq_ofNat, BitVec.getLsbD_zero, clmulBit]
  simp only [maskedShift_getLsbD a b _ hk]

/-- Settles O14. -/
theorem clmulIsPolynomialProduct : Obligations.ClmulIsPolynomialProduct := fun a b =>
  ⟨fun _ hk => clmul8_getLsbD a b hk, clmul8_comm a b, polyOf_clmul8 a b⟩

end Sys2Proof.Machine
end

section
/-! The three forms of the reducer (R81). -/

namespace Sys2Proof.Machine

open Polynomial

/-- The wiring constants are what the reducer makes of single bits (R81). -/
theorem foldConstants_eq_red15 : ∀ c ∈ foldConstants, c.1 < 15 ∧ red15 (1#15 <<< c.1) = c.2 := by decide

theorem polyOf_one_shiftLeft {k : Nat} (hk : k < 15) : polyOf (1#15 <<< k) = X ^ k := by
  have fits (j : Nat) (hj : 15 ≤ j + k) : (1#15).getLsbD j = false := by
    rw [BitVec.getLsbD_one, decide_eq_false (by omega : ¬ j = 0), Bool.and_false]
  have hone : polyOf 1#15 = 1 := by simp [polyOf]
  rw [polyOf_shiftLeft _ k fits, hone, one_mul]

/-- Each constant `C_k` is `x^k mod p(x)` (R81). -/
theorem polyOf_foldConstant {c : Nat × Byte} (hc : c ∈ foldConstants) : polyOf c.2 = X ^ c.1 %ₘ reducingPoly := by
  obtain ⟨hk, hred⟩ := foldConstants_eq_red15 c hc
  rw [← hred, polyOf_red15, polyOf_one_shiftLeft hk]

/-- A product's polynomial: its low byte, and the terms that the constants stand for. -/
theorem polyOf_product (p : Product) :
    polyOf p = polyOf (p.setWidth 8) +
      (foldConstants.map fun c => if bit p c.1 then (X : (ZMod 2)[X]) ^ c.1 else 0).sum := by
  have hlow : polyOf (p.setWidth 8) = ∑ i ∈ Finset.range 8, if p.getLsbD i then (X : (ZMod 2)[X]) ^ i else 0 :=
    Finset.sum_congr rfl fun i hi => by simp [Finset.mem_range.1 hi]
  rw [hlow, polyOf, Finset.sum_range_add _ 8 7]
  rfl

/-- A constant under its mask is the remainder of the term it stands for. -/
theorem polyOf_maskedConstant (p : Product) {c : Nat × Byte} (hc : c ∈ foldConstants) :
    polyOf (c.2 &&& rep8 (bit p c.1)) = (if bit p c.1 then X ^ c.1 else 0) %ₘ reducingPoly := by
  rw [and_rep8]
  split_ifs
  · exact polyOf_foldConstant hc
  · rw [zero_modByMonic]
    exact polyOf_zero

theorem polyOf_red15Folded (p : Product) : polyOf (red15Folded p) = polyOf p %ₘ reducingPoly := by
  calc polyOf (red15Folded p)
      = polyOf (p.setWidth 8) + (foldConstants.map fun c => polyOf (c.2 &&& rep8 (bit p c.1))).sum :=
        polyOf_foldl_xor _ _ _
    _ = polyOf (p.setWidth 8) %ₘ reducingPoly +
          (foldConstants.map fun c => (if bit p c.1 then X ^ c.1 else 0) %ₘ reducingPoly).sum := by
        rw [polyOf_modByMonic, List.map_congr_left fun c hc => polyOf_maskedConstant p hc]
    _ = polyOf p %ₘ reducingPoly := by
        rw [polyOf_product, add_modByMonic, ← modByMonicHom_apply, ← modByMonicHom_apply, map_list_sum, List.map_map]
        rfl

theorem red15_eq_red15Folded (p : Product) : red15 p = red15Folded p := by
  apply polyOf_injective
  rw [polyOf_red15, polyOf_red15Folded]

/-- Row `i` names bit `i` and the bits whose constants have bit `i` set (R81). -/
theorem red15Rows_eq : ∀ i < 8,
    red15Rows.getD i [] = i :: (foldConstants.filter fun c => c.2.getLsbD i).map Prod.fst := by decide

/-- An exclusive-or over the list's members that `keep` selects, read as one over all of them under a mask. -/
theorem foldl_xor_filter {α : Type} (keep f : α → Bool) (l : List α) (start : Bool) :
    (l.filter keep).foldl (fun x c => x ^^ f c) start = l.foldl (fun x c => x ^^ (keep c && f c)) start := by
  rw [List.foldl_filter]
  congr 1
  funext x c
  cases keep c <;> simp

/-- The bit equations of R81. -/
theorem red15_getLsbD (p : Product) {i : Nat} (hi : i < 8) : (red15 p).getLsbD i = xorOfBits p (red15Rows.getD i []) := by
  have hlow : (p.setWidth 8).getLsbD i = bit p i := by
    rw [BitVec.getLsbD_setWidth, decide_eq_true hi, Bool.true_and, bit]
  calc (red15 p).getLsbD i
      = foldConstants.foldl (fun x c => x ^^ (c.2 &&& rep8 (bit p c.1)).getLsbD i) ((p.setWidth 8).getLsbD i) := by
        rw [red15_eq_red15Folded, red15Folded, getLsbD_foldl_xor]
    _ = foldConstants.foldl (fun x c => x ^^ (c.2.getLsbD i && bit p c.1)) (bit p i) := by
        simp only [getLsbD_and_rep8, hlow, bit, Bool.and_comm]
    _ = xorOfBits p (i :: (foldConstants.filter fun c => c.2.getLsbD i).map Prod.fst) := by
        rw [xorOfBits, List.foldl_cons, List.foldl_map, foldl_xor_filter, Bool.false_xor]
    _ = xorOfBits p (red15Rows.getD i []) := by rw [red15Rows_eq i hi]

/-- Settles O15. -/
theorem red15IsPolynomialRemainder : Obligations.Red15IsPolynomialRemainder :=
  ⟨fun p => ⟨polyOf_red15 p, red15_eq_red15Folded p, fun _ hi => red15_getLsbD p hi⟩,
    fun _ hc => polyOf_foldConstant hc⟩

end Sys2Proof.Machine
end

section
/-! Bytes as residues of polynomials modulo p(x): there MUL and ADD are the ring's product and sum (R2, R12). -/

namespace Sys2Proof

open Polynomial Machine

/-- The residue modulo p(x) that a byte stands for (R2, R12). -/
noncomputable def residue (v : Byte) : AdjoinRoot reducingPoly := AdjoinRoot.mk reducingPoly (polyOf v)

/-- A residue stands for one byte only, which has the least degree in it. -/
theorem residue_injective : Function.Injective residue := by
  intro v w h
  apply polyOf_injective
  have hrem := congrArg (AdjoinRoot.modByMonicHom reducingPoly_monic) h
  rwa [residue, residue, AdjoinRoot.modByMonicHom_mk, AdjoinRoot.modByMonicHom_mk, polyOf_modByMonic,
    polyOf_modByMonic] at hrem

/-- Reduction does not change the residue. -/
theorem mk_modByMonic (q : (ZMod 2)[X]) :
    AdjoinRoot.mk reducingPoly (q %ₘ reducingPoly) = AdjoinRoot.mk reducingPoly q := by
  rw [← AdjoinRoot.modByMonicHom_mk reducingPoly_monic]
  exact AdjoinRoot.mk_leftInverse reducingPoly_monic _

theorem residue_eq_sum (b : Byte) :
    residue b = ∑ i ∈ Finset.range 8, if bit b i then AdjoinRoot.root reducingPoly ^ i else 0 := by
  rw [residue, polyOf, map_sum]
  refine Finset.sum_congr rfl fun i _ => ?_
  rw [apply_ite (AdjoinRoot.mk reducingPoly), map_pow, AdjoinRoot.mk_X, map_zero, bit]

@[simp] theorem residue_xor (v w : Byte) : residue (v ^^^ w) = residue v + residue w := by
  rw [residue, polyOf_xor, map_add]; rfl

theorem residue_zero : residue 0x00 = 0 := by rw [residue, BitVec.ofNat_eq_ofNat, polyOf_zero, map_zero]

theorem residue_one : residue 0x01 = 1 := by rw [residue, polyOf_one, map_one]

/-- The element x of the field is `0x02` (R14). -/
theorem residue_two : residue 0x02 = AdjoinRoot.root reducingPoly := by rw [residue, polyOf_two, AdjoinRoot.mk_X]

end Sys2Proof

namespace Sys2Proof.Machine

open Polynomial

@[simp] theorem residue_mul8 (a b : Byte) : residue (mul8 a b) = residue a * residue b := by
  rw [residue, polyOf_mul8, mk_modByMonic, map_mul]; rfl

@[simp] theorem residue_add8 (a b : Byte) : residue (add8 a b) = residue a + residue b := residue_xor a b

@[simp] theorem residue_xtime (x : Byte) : residue (xtime x) = residue x * AdjoinRoot.root reducingPoly := by
  rw [← mul8_two_right, residue_mul8, residue_two]

@[simp] theorem residue_pow8 (a : Byte) (k : Nat) : residue (pow8 a k) = residue a ^ k := by
  induction k with
  | zero => exact residue_one
  | succ k ih => rw [pow8, residue_mul8, ih, pow_succ]

/-- An operand under the mask of a bit, times `q`, is the operand times `q` or nothing (R83, R85). -/
theorem residue_and_rep8_mul (a : Byte) (c : Bool) (q : AdjoinRoot reducingPoly) :
    residue (a &&& rep8 c) * q = residue a * if c then q else 0 := by
  rw [and_rep8]
  cases c
  · rw [if_neg Bool.false_ne_true, if_neg Bool.false_ne_true, mul_zero]
    exact mul_eq_zero_of_left residue_zero q
  · rfl

theorem mul8_comm (a b : Byte) : mul8 a b = mul8 b a := by
  apply residue_injective
  rw [residue_mul8, residue_mul8, mul_comm]

theorem mul8_assoc (a b c : Byte) : mul8 (mul8 a b) c = mul8 a (mul8 b c) := by
  apply residue_injective
  simp only [residue_mul8, mul_assoc]

theorem mul8_add8 (a b c : Byte) : mul8 a (add8 b c) = add8 (mul8 a b) (mul8 a c) := by
  apply residue_injective
  simp only [residue_mul8, residue_add8, mul_add]

theorem mul8_one_right (a : Byte) : mul8 a 0x01 = a := (mul8_comm a 0x01).trans (mul8_one_left a)

theorem mul8_zero_left (a : Byte) : mul8 0x00 a = 0x00 := by
  apply residue_injective
  rw [residue_mul8, residue_zero, zero_mul]

theorem mul8_zero_right (a : Byte) : mul8 a 0x00 = 0x00 := (mul8_comm a 0x00).trans (mul8_zero_left a)

/-- Settles O20: the laws are those of the ring of residues. -/
theorem mulFieldLaws : Obligations.MulFieldLaws := fun a b c =>
  ⟨mul8_one_right a, mul8_comm a b, mul8_assoc a b c, mul8_add8 a b c⟩

/-- MUL completes with whatever byte the product is shown to be. -/
theorem completesWith_mul {a b r : Byte} (h : mul8 a b = r) (s : State) : Safety.CompletesWith (.mul a b) r s :=
  completesWith_of_result_eq (.mul a b) h s

/-- Settles O11: the encoding is read back, and each corner case is a law of multiplication or one product. -/
theorem mulIsReducedCarrylessProduct : Obligations.MulIsReducedCarrylessProduct := fun a b s =>
  ⟨decode_encode (.mul a b), rfl, completesWith_mul (mul8_zero_right a) s, completesWith_mul (mul8_zero_left a) s,
    completesWith_mul (mul8_one_right a) s, completesWith_mul (by decide) s, by decide, completesWith_mul (by decide) s,
    completesWith_mul rfl s, by decide, completesWith_mul (by decide) s, completesWith_mul rfl s⟩

end Sys2Proof.Machine
end

section
/-! The reduction step `xtime` and the iterative multipliers (R83, R84, R86). -/

namespace Sys2Proof.Machine

/-- The shifted value on 9 bits has the old bit 7 as its `x^8` term (R84). -/
theorem setWidth_shiftLeft_one (x : Byte) :
    x.setWidth 9 <<< 1 = (x <<< 1).setWidth 9 ^^^ (if x.getLsbD 7 then (0x100 : BitVec 9) else 0) := by
  have htop (j : Nat) : (if x.getLsbD 7 then (0x100 : BitVec 9) else 0).getLsbD j = (decide (j = 8) && x.getLsbD 7) := by
    have h100 : (0x100 : BitVec 9) = BitVec.twoPow 9 8 := rfl
    cases x.getLsbD 7
    · simp
    · simp [h100, BitVec.getLsbD_twoPow, eq_comm]
  refine BitVec.eq_of_getLsbD_eq fun j hj => ?_
  rw [BitVec.getLsbD_xor, htop, BitVec.getLsbD_shiftLeft, BitVec.getLsbD_setWidth, BitVec.getLsbD_setWidth,
    BitVec.getLsbD_shiftLeft, decide_eq_true hj, decide_eq_true (Nat.lt_of_le_of_lt (Nat.sub_le j 1) hj)]
  obtain rfl | hlt := Nat.eq_or_lt_of_le (Nat.le_of_lt_succ hj)
  · simp
  · simp [hlt, Nat.ne_of_lt hlt]

/-- Settles O18. -/
theorem xtimeMultipliesByX : Obligations.XtimeMultipliesByX := by
  intro x
  have htruncated : xtime x = (x <<< 1) ^^^ (if x.getLsbD 7 then 0x1B else 0x00) := by
    rw [xtime, and_rep8]; rfl
  refine ⟨?_, ?_, (mul8_two_right x).symm, polyOf_xtime x⟩
  · rw [htruncated]
    congr 1
    exact BitVec.and_allOnes.symm
  · rw [htruncated, setWidth_shiftLeft_one, BitVec.setWidth_xor, BitVec.xor_assoc]
    cases x.getLsbD 7 <;> rfl

/-- Before step (2) of iteration `n`, the running operand is `a` times `x^n` (R83). -/
theorem mulRefAfter_snd (a b : Byte) (n : Nat) : (mulRefAfter a b n).2 = mul8 a (pow8 0x02 n) := by
  induction n with
  | zero => exact (mul8_one_right a).symm
  | succ n ih => rw [mulRefAfter, ih, pow8, ← mul8_assoc, mul8_two_right]

/-- After `n` iterations the accumulator is `a` times the terms of `b` below `x^n` (R83). -/
theorem residue_mulRefAfter_fst (a b : Byte) (n : Nat) :
    residue (mulRefAfter a b n).1 =
      residue a * ∑ i ∈ Finset.range n, if bit b i then AdjoinRoot.root reducingPoly ^ i else 0 := by
  induction n with
  | zero => rw [Finset.sum_range_zero, mul_zero]; exact residue_zero
  | succ n ih =>
    have hterm : residue ((mulRefAfter a b n).2 &&& rep8 (bit b n)) =
        residue a * if bit b n then AdjoinRoot.root reducingPoly ^ n else 0 := by
      rw [← mul_one (residue _), residue_and_rep8_mul, mulRefAfter_snd, residue_mul8, residue_pow8, residue_two, mul_assoc,
        mul_ite, mul_one, mul_zero]
    rw [mulRefAfter, residue_xor, ih, hterm, Finset.sum_range_succ, mul_add]

theorem mulRef_eq_mul8 (a b : Byte) : mulRef a b = mul8 a b := by
  apply residue_injective
  rw [mulRef, residue_mulRefAfter_fst, residue_mul8, ← residue_eq_sum]

/-- Settles O17. -/
theorem mulReferenceAgrees : Obligations.MulReferenceAgrees := fun a b =>
  ⟨mulRef_eq_mul8 a b, fun i _ => mulRefAfter_snd a b i⟩

/-- One iteration of the Horner order (R86). -/
def hornerStep (a b acc : Byte) (i : Nat) : Byte := xtime acc ^^^ (a &&& rep8 (bit b i))

theorem mulHorner_eq_foldl (a b : Byte) : mulHorner a b = (List.range 8).reverse.foldl (hornerStep a b) 0x00 := rfl

/-- The iterations from bit `n - 1` down to 0 multiply the accumulator by `x^n` and add `a` times the terms of `b`
below `x^n`. -/
theorem residue_foldl_hornerStep (a b : Byte) (n : Nat) (acc : Byte) :
    residue ((List.range n).reverse.foldl (hornerStep a b) acc) =
      residue acc * AdjoinRoot.root reducingPoly ^ n +
        residue a * ∑ i ∈ Finset.range n, if bit b i then AdjoinRoot.root reducingPoly ^ i else 0 := by
  induction n generalizing acc with
  | zero => simp
  | succ n ih =>
    rw [List.range_succ, List.reverse_concat, List.foldl_cons, ih, hornerStep, residue_xor, residue_xtime,
      Finset.sum_range_succ, add_mul, residue_and_rep8_mul]
    ring

theorem mulHorner_eq_mul8 (a b : Byte) : mulHorner a b = mul8 a b := by
  apply residue_injective
  rw [mulHorner_eq_foldl, residue_foldl_hornerStep, residue_mul8, ← residue_eq_sum, residue_zero, zero_mul, zero_add]

/-- One iteration of the refused order, on `(acc, x)`: the shift comes before the accumulate (90 C1). -/
def shiftFirstStep (b : Byte) (r : Byte × Byte) (i : Nat) : Byte × Byte :=
  (r.1 ^^^ (xtime r.2 &&& rep8 (bit b i)), xtime r.2)

theorem mulShiftFirst_eq_foldl (a b : Byte) :
    mulShiftFirst a b = ((List.range 8).foldl (shiftFirstStep b) (0x00, a)).1 := rfl

/-- The refused order runs as the reference does on an operand that is one shift ahead. -/
theorem foldl_shiftFirstStep (a b : Byte) (n : Nat) :
    Prod.map id xtime ((List.range n).foldl (shiftFirstStep b) (0x00, a)) = mulRefAfter (xtime a) b n := by
  induction n with
  | zero => rfl
  | succ n ih =>
    rw [List.range_succ, List.foldl_append, mulRefAfter, ← ih]
    rfl

theorem mulShiftFirst_eq_mul8 (a b : Byte) : mulShiftFirst a b = mul8 (mul8 a b) 0x02 := by
  have hahead : mulShiftFirst a b = mulRef (xtime a) b := by
    rw [mulShiftFirst_eq_foldl, mulRef, ← foldl_shiftFirstStep]
    rfl
  rw [hahead, mulRef_eq_mul8, ← mul8_two_right, mul8_assoc, mul8_comm 0x02 b, ← mul8_assoc]

/-- Settles O19: the refused order multiplies by `0x02` once more, which shows at `(1, 1)`. -/
theorem mulOrdersThatConform : Obligations.MulOrdersThatConform := by
  refine ⟨fun a b => ⟨mulHorner_eq_mul8 a b, mulRef_eq_mul8 a b, mulShiftFirst_eq_mul8 a b⟩, ?_⟩
  rw [mulShiftFirst_eq_mul8, mul8_one_left, mul8_one_left]
  decide

end Sys2Proof.Machine
end

section
/-! The nonzero bytes are the powers of `0x03` (R92). -/

namespace Sys2Proof.Machine

theorem pow8_add (a : Byte) (m n : Nat) : pow8 a (m + n) = mul8 (pow8 a m) (pow8 a n) := by
  apply residue_injective
  simp only [residue_pow8, residue_mul8, pow_add]

theorem residue_pow_eq_one_iff (a : Byte) (k : Nat) : residue a ^ k = 1 ↔ pow8 a k = 0x01 := by
  rw [← residue_pow8, ← residue_one, residue_injective.eq_iff]

theorem ne_zero_of_mul8_eq_one {a b : Byte} (h : mul8 a b = 0x01) : a ≠ 0 := by
  rintro rfl
  rw [mul8_zero_left] at h
  exact absurd h (by decide)

/-- An exponent that gives 1, while none of its proper divisors does, is the order. -/
theorem orderOf_residue_eq {a : Byte} {n : Nat} (hn : 0 < n) (hone : pow8 a n = 0x01)
    (hne : ∀ d ∈ n.properDivisors, pow8 a d ≠ 0x01) : orderOf (residue a) = n := by
  have hdvd : orderOf (residue a) ∣ n := orderOf_dvd_of_pow_eq_one ((residue_pow_eq_one_iff a n).2 hone)
  by_contra hproper
  have hmem := Nat.mem_properDivisors.2 ⟨hdvd, lt_of_le_of_ne (Nat.le_of_dvd hn hdvd) hproper⟩
  exact hne _ hmem ((residue_pow_eq_one_iff a _).1 (pow_orderOf_eq_one _))

/-- No exponent below the order gives 1. -/
theorem pow8_ne_one_of_lt_orderOf {a : Byte} {k : Nat} (hk : 0 < k) (hlt : k < orderOf (residue a)) :
    pow8 a k ≠ 0x01 := by
  rw [Ne, ← residue_pow_eq_one_iff]
  exact pow_ne_one_of_lt_orderOf hk.ne' hlt

theorem pow8_three_255 : pow8 0x03 255 = 0x01 := by decide +kernel

theorem orderOf_residue_three : orderOf (residue 0x03) = 255 :=
  orderOf_residue_eq (by decide) pow8_three_255 (by decide +kernel)

theorem pow8_two_51 : pow8 0x02 51 = 0x01 := by decide +kernel

theorem orderOf_residue_two : orderOf (residue 0x02) = 51 :=
  orderOf_residue_eq (by decide) pow8_two_51 (by decide +kernel)

theorem pow8_three_ne_zero {k : Nat} (hk : k < 255) : pow8 0x03 k ≠ 0 := by
  apply ne_zero_of_mul8_eq_one (b := pow8 0x03 (255 - k))
  rw [← pow8_add, Nat.add_sub_cancel' hk.le, pow8_three_255]

/-- The 255 powers of `0x03` are different and nonzero, so they are all the nonzero bytes (R92). -/
theorem exists_pow8_three_eq {a : Byte} (ha : a ≠ 0) : ∃ k < 255, pow8 0x03 k = a := by
  have hmaps : Set.MapsTo (pow8 0x03) (Finset.range 255 : Set Nat) (Finset.univ.erase (0 : Byte) : Set Byte) := by
    intro k hk
    simpa using pow8_three_ne_zero (Finset.mem_range.1 hk)
  have hinj : Set.InjOn (pow8 0x03) (Finset.range 255 : Set Nat) := by
    intro j hj k hk h
    have hpow := congrArg residue h
    rw [residue_pow8, residue_pow8] at hpow
    rw [Finset.coe_range, ← orderOf_residue_three] at hj hk
    exact pow_injOn_Iio_orderOf hj hk hpow
  have hcard : (Finset.univ.erase (0 : Byte)).card ≤ (Finset.range 255).card := by
    rw [Finset.card_erase_of_mem (Finset.mem_univ _), Finset.card_univ, Finset.card_range,
      Fintype.card_congr BitVec.equivFin.toEquiv, Fintype.card_fin]
    decide
  obtain ⟨k, hk, rfl⟩ := Finset.surjOn_of_injOn_of_card_le _ hmaps hinj hcard
    (Finset.mem_coe.2 (Finset.mem_erase.2 ⟨ha, Finset.mem_univ a⟩))
  exact ⟨k, Finset.mem_range.1 hk, rfl⟩

theorem pow8_255 {a : Byte} (ha : a ≠ 0) : pow8 a 255 = 0x01 := by
  obtain ⟨k, -, rfl⟩ := exists_pow8_three_eq ha
  rw [← residue_pow_eq_one_iff, residue_pow8, pow_right_comm, (residue_pow_eq_one_iff _ _).2 pow8_three_255, one_pow]

/-- `a^254` is the inverse of a nonzero `a` (R92). -/
theorem mul8_pow8_254 {a : Byte} (ha : a ≠ 0) : mul8 a (pow8 a 254) = 0x01 := by
  rw [mul8_comm]
  exact pow8_255 ha

/-- No zero divisors (R92): a nonzero factor is cancelled by its inverse. -/
theorem mul8_ne_zero {a b : Byte} (ha : a ≠ 0) (hb : b ≠ 0) : mul8 a b ≠ 0 := by
  intro h
  apply hb
  calc b = mul8 (mul8 a (pow8 a 254)) b := by rw [mul8_pow8_254 ha, mul8_one_left]
    _ = mul8 (pow8 a 254) (mul8 a b) := by rw [mul8_comm a, mul8_assoc]
    _ = 0 := by rw [h]; exact mul8_zero_right _

/-- Settles O21. -/
theorem nonzeroElementsFormCyclicGroup : Obligations.NonzeroElementsFormCyclicGroup := by
  refine ⟨fun a b => mul8_ne_zero, fun a ha => ?_, ⟨pow8_three_255, fun k hk hlt => ?_⟩, pow8_two_51,
    fun k hk hlt => ?_⟩
  · have hinverse := mul8_pow8_254 ha
    exact ⟨pow8_255 ha, ne_zero_of_mul8_eq_one ((mul8_comm _ a).trans hinverse), hinverse, exists_pow8_three_eq ha⟩
  · exact pow8_ne_one_of_lt_orderOf hk (orderOf_residue_three ▸ hlt)
  · exact pow8_ne_one_of_lt_orderOf hk (orderOf_residue_two ▸ hlt)

end Sys2Proof.Machine
end

section
/-! The squarer (R100): squaring a polynomial over GF(2) spreads its coefficients over the even degrees. -/

namespace Sys2Proof.Machine

open Polynomial

@[simp] theorem residue_sqr8 (a : Byte) : residue (sqr8 a) = residue a ^ 2 := by
  rw [sqr8, residue_mul8, sq]

/-- Squaring is linear (R100): the two cross terms are the same byte and cancel. -/
theorem sqr8_xor (a b : Byte) : sqr8 (a ^^^ b) = sqr8 a ^^^ sqr8 b := by
  have hcross : residue (mul8 a b) + residue (mul8 a b) = 0 := by
    rw [← residue_xor, BitVec.xor_self]
    exact residue_zero
  rw [residue_mul8] at hcross
  apply residue_injective
  rw [residue_sqr8, residue_xor, residue_xor, residue_sqr8, residue_sqr8]
  linear_combination hcross

/-- A coefficient over GF(2) tells the bit it stands for (R12). -/
theorem eq_of_coefficient_eq {c d : Bool} (h : (if c then 1 else 0 : ZMod 2) = if d then 1 else 0) : c = d := by
  cases c <;> cases d <;> simp_all

/-- The carry-less square holds bit `k / 2` in each even place `k` and 0 in each odd one: over GF(2) the square of a
polynomial is the polynomial in `x^2`. -/
theorem clmul8_self_getLsbD (a : Byte) (k : Nat) :
    (clmul8 a a).getLsbD k = (decide (2 ∣ k) && a.getLsbD (k / 2)) := by
  have hcoeff := polyOf_coeff (clmul8 a a) k
  rw [polyOf_clmul8, ← sq, ← ZMod.expand_card, coeff_expand two_pos, polyOf_coeff] at hcoeff
  by_cases heven : 2 ∣ k
  · rw [if_pos heven] at hcoeff
    rw [decide_eq_true heven, Bool.true_and, eq_of_coefficient_eq hcoeff]
  · rw [if_neg heven] at hcoeff
    rw [decide_eq_false heven, Bool.false_and]
    exact eq_of_coefficient_eq hcoeff.symm

/-- Row `i` of the squarer network halves the even entries of the reducer's row `i` (R81, R100). -/
theorem sqrRows_eq : ∀ i < 8, sqrRows.getD i [] = ((red15Rows.getD i []).filter (2 ∣ ·)).map (· / 2) := by decide

/-- An exclusive-or of bits of the carry-less square is one of bits of `a`. -/
theorem xorOfBits_clmul8_self (a : Byte) (row : List Nat) :
    xorOfBits (clmul8 a a) row = xorOfBits a ((row.filter (2 ∣ ·)).map (· / 2)) := by
  rw [xorOfBits, xorOfBits, List.foldl_map, foldl_xor_filter]
  simp only [bit, clmul8_self_getLsbD]

/-- The squarer network computes the square (R100). -/
theorem sqr8_getLsbD (a : Byte) {i : Nat} (hi : i < 8) : (sqr8 a).getLsbD i = xorOfBits a (sqrRows.getD i []) := by
  rw [sqr8, mul8, red15_getLsbD _ hi, xorOfBits_clmul8_self, ← sqrRows_eq i hi]

/-- Settles O22. -/
theorem squarerIsLinearNetwork : Obligations.SquarerIsLinearNetwork :=
  ⟨fun a b => ⟨rfl, sqr8_xor a b, fun _ hi => sqr8_getLsbD a hi⟩, by decide⟩

end Sys2Proof.Machine
end

section
/-! Chains of SQR and MUL steps as powers of their start (R101, R103, R104). -/

namespace Sys2Proof.Machine

theorem pow8_one (a : Byte) : pow8 a 1 = a := mul8_one_left a

theorem sqr8_pow8 (a : Byte) (k : Nat) : sqr8 (pow8 a k) = pow8 a (2 * k) := by
  rw [sqr8, ← pow8_add, two_mul]

/-- Before any round the exponent is 1, and a round takes `e` to `2e + 1` (R103). -/
theorem invRounds_eq_pow8 (a : Byte) (n : Nat) : invRounds a n = pow8 a (2 ^ (n + 1) - 1) := by
  induction n with
  | zero => exact (pow8_one a).symm
  | succ n ih =>
    have hexponent : 2 ^ (n + 1 + 1) - 1 = 2 * (2 ^ (n + 1) - 1) + 1 := by
      have hpos := Nat.one_le_two_pow (n := n + 1)
      omega
    rw [invRounds, ih, sqr8_pow8, hexponent, pow8]

/-- INV raises to the power 254 (R101). -/
theorem inv8_eq_pow8_254 (a : Byte) : inv8 a = pow8 a 254 :=
  (congrArg sqr8 (invRounds_eq_pow8 a 6)).trans (sqr8_pow8 a 127)

theorem inv8_zero : inv8 0x00 = 0x00 := (inv8_eq_pow8_254 0x00).trans (mul8_zero_right _)

/-- The reference chain holds the powers with the listed exponents (R103). -/
theorem invTrace_eq_map_pow8 (a : Byte) : invTrace a = chainExponents.map (pow8 a) := by
  have hsquare : sqr8 a = pow8 a 2 := (pow8_two a).symm
  simp only [invTrace, chainExponents, List.map, pow8_one, hsquare, inv8_eq_pow8_254, invRounds_eq_pow8, sqr8_pow8,
    Nat.reduceAdd, Nat.reducePow, Nat.reduceSub, Nat.reduceMul]

/-- Settles O23. -/
theorem referenceChainPowers : Obligations.ReferenceChainPowers := fun a =>
  ⟨invTrace_eq_map_pow8 a, rfl, inv8_eq_pow8_254 a, inv8_zero⟩

/-- A chain computes the power that its exponent names (R104). -/
theorem Chain.value_eq_pow8 (a : Byte) (c : Chain) : c.value a = pow8 a c.exponent := by
  induction c with
  | start => exact (pow8_one a).symm
  | sqr c ih => rw [Chain.value, ih, sqr8_pow8, Chain.exponent]
  | mul c d ihc ihd => rw [Chain.value, ihc, ihd, ← pow8_add, Chain.exponent]

/-- No step leaves zero (R102, R104). -/
theorem Chain.value_zero (c : Chain) : c.value 0x00 = 0x00 := by
  induction c with
  | start => rfl
  | sqr c ih => rw [Chain.value, ih, sqr8, mul8_zero_left]
  | mul c d ihc _ => rw [Chain.value, ihc, mul8_zero_left]

/-- Settles O24: both sides are the one power `a^254`. -/
theorem anyChainTo254Inverts : Obligations.AnyChainTo254Inverts := by
  refine fun c => ⟨fun a h => ?_, c.value_zero⟩
  rw [c.value_eq_pow8, h, inv8_eq_pow8_254]

end Sys2Proof.Machine
end

section
/-! The inverse (R101, R106, R107). -/

namespace Sys2Proof.Machine

theorem mul8_inv8 {a : Byte} (ha : a ≠ 0) : mul8 a (inv8 a) = 0x01 := by
  rw [inv8_eq_pow8_254, mul8_pow8_254 ha]

/-- The inverse is known by its product with the operand (R106). -/
theorem inv8_eq_of_mul8_eq_one {a b : Byte} (h : mul8 a b = 0x01) : inv8 a = b := by
  calc inv8 a = mul8 (inv8 a) (mul8 a b) := by rw [h, mul8_one_right]
    _ = mul8 (mul8 a (inv8 a)) b := by rw [← mul8_assoc, mul8_comm (inv8 a)]
    _ = b := by rw [mul8_inv8 (ne_zero_of_mul8_eq_one h), mul8_one_left]

theorem inv8_inv8 (a : Byte) : inv8 (inv8 a) = a := by
  by_cases ha : a = 0x00
  · rw [ha, inv8_zero, inv8_zero]
  · exact inv8_eq_of_mul8_eq_one ((mul8_comm _ _).trans (mul8_inv8 ha))

/-- A power of a product is the product of the powers, zero included (R107). -/
theorem inv8_mul8 (a b : Byte) : inv8 (mul8 a b) = mul8 (inv8 a) (inv8 b) := by
  apply residue_injective
  simp only [inv8_eq_pow8_254, residue_pow8, residue_mul8, mul_pow]

/-- Settles O26. -/
theorem inverseInvolutiveMultiplicative : Obligations.InverseInvolutiveMultiplicative := fun a b =>
  ⟨inv8_inv8 a, inv8_mul8 a b⟩

/-- INV completes with whatever byte the inverse is shown to be, whatever `b` is (R34). -/
theorem completesWith_inv {a r : Byte} (h : inv8 a = r) (b : Byte) (s : State) :
    Safety.CompletesWith (.inv a b) r s :=
  completesWith_of_result_eq (.inv a b) h s

/-- Settles O25. -/
theorem inverseCorrect : Obligations.InverseCorrect := by
  refine fun a b s => ⟨inv8 a, completesWith_inv rfl b s, mul8_inv8, ?_, ?_⟩
  · rintro rfl
    exact inv8_zero
  · rintro rfl
    exact inv8_one

/-- Settles O12: the encoding is read back, and each listed inverse is the one whose product with the operand is 1. -/
theorem invIsPower254 : Obligations.InvIsPower254 := by
  intro a b b' s
  have hignored : exec (.inv a b) s = exec (.inv a b') s := by rw [exec_eq, exec_eq, result, result]
  have hworked : mul8 110 33 = 1 := by decide
  exact ⟨decode_encode (.inv a b), rfl, completesWith_inv inv8_zero b s, completesWith_inv inv8_one b s,
    completesWith_inv (inv8_eq_of_mul8_eq_one (by decide)) b s,
    completesWith_inv (inv8_eq_of_mul8_eq_one (by decide)) b s, completesWith_inv (inv8_inv8 a) b s, hignored,
    completesWith_inv (inv8_eq_of_mul8_eq_one hworked) b s, hworked, completesWith_inv (inv8_eq_pow8_254 a) b s⟩

end Sys2Proof.Machine
end

section
/-! No step ends in a fault or a refusal, and what the host's moves that are no edge do (`60_exceptions.md`). -/

namespace Sys2Proof.Safety

open Sys2Proof.Machine

/-- Settles O28. -/
theorem everyStepAnswersNext : Obligations.EveryStepAnswersNext :=
  ⟨fun i s => ⟨acceptEdge (result i) s, exec_eq i s⟩, step_answers_next⟩

/-- A step makes the plan's first move and leaves the rest of the plan, which has no effect on what the step does to
the block (log entry 6). -/
theorem step_withPlan_cons (s : State) (m : HostMove) :
    ∃ t : State, ∀ rest, step (s.withPlan (m :: rest)) = .next (t.withPlan rest) := by
  cases m with
  | edge p =>
    refine ⟨if p.rst then resetEdge s
      else if p.reqValid then acceptEdge (coreF p.reqOp p.reqA p.reqB) s else idleEdge s, fun rest => ?_⟩
    rw [step_edge]
    split_ifs <;> rfl
  | stopClock => exact ⟨s, fun _ => step_of_stopClock rfl⟩
  | powerCycle => exact ⟨powerUp s, fun _ => step_of_powerCycle rfl⟩

theorem run_succ_of_step {s t : State} (h : step s = .next t) (n : Nat) :
    Host.Core.run core (n + 1) s = Host.Core.run core n t := by
  simp only [Host.Core.run, core, h]

/-- Stops can be taken out of any plan: a stop leaves the block as it is, and every other move does to it what it does
under the shorter plan (R132). -/
theorem run_filter_ne_stopClock (s : State) (moves : List HostMove) :
    Host.Core.run core moves.length (s.withPlan moves) =
      Host.Core.run core (moves.filter (fun m => m ≠ .stopClock)).length
        (s.withPlan (moves.filter (fun m => m ≠ .stopClock))) := by
  induction moves generalizing s with
  | nil => rfl
  | cons m rest ih =>
    by_cases hm : m = .stopClock
    · subst hm
      have hstop : step (s.withPlan (.stopClock :: rest)) = .next (s.withPlan rest) := step_of_stopClock rfl
      rw [List.length_cons, run_succ_of_step hstop, List.filter_cons_of_neg (by simp), ih]
    · obtain ⟨t, ht⟩ := step_withPlan_cons s m
      rw [List.filter_cons_of_pos (by simpa using hm), List.length_cons, List.length_cons,
        run_succ_of_step (ht rest), run_succ_of_step (ht _), ih]

/-- Settles O41: a stop is `holdClock`, which changes the plan alone, and the outputs do not read the plan (R25); a power
cycle is `powerUp`, which fills every slot anew (R38). -/
theorem stoppedClockHolds : Obligations.StoppedClockHolds :=
  ⟨fun s hs => ⟨holdClock s, step_of_stopClock hs, rfl, rfl, rfl⟩, run_filter_ne_stopClock,
    fun s hs => ⟨powerUp s, step_of_powerCycle hs, powerUpSlots_length _ _ _ _ _⟩⟩

end Sys2Proof.Safety
end

section
/-! The laws of the outputs that a host may rely on (`70_reset_and_hazards.md`): answers without reset, timing that
control alone decides, and commands chained through the outputs. -/

namespace Sys2Proof.Safety

open Sys2Proof.Machine

/-- Settles O36: without a reset, the response in cycle `m` is the one that the inputs of cycle `m - LAT` ask for. -/
theorem responseTraceLaw : Obligations.ResponseTraceLaw := by
  intro s ins m hs noReset hlat hm
  have hp : ins[m - s.pipe.length]? = some (ins[m - s.pipe.length]'(by omega)) := List.getElem?_eq_getElem _
  obtain ⟨t, ht, hresponse⟩ := response_without_reset hs noReset hlat hm hp
  exact ⟨t, _, ht, hp, outputs_of_response_eq_requested hresponse⟩

/-- The valid bits after an edge, as the inputs' control bits and the valid bits before it decide them (R29, R30). -/
def nextValidBits (bits : List Bool) (p : PortInputs) : List Bool :=
  if p.rst then List.replicate bits.length false else (p.reqValid :: bits).dropLast

theorem nextValidBits_congr {p q : PortInputs} (h : SameControl p q) (bits : List Bool) :
    nextValidBits bits p = nextValidBits bits q := by
  obtain ⟨hrst, hreqValid⟩ := h
  rw [nextValidBits, nextValidBits, hrst, hreqValid]

theorem foldl_nextValidBits_congr {ps qs : List PortInputs} (h : List.Forall₂ SameControl ps qs) (bits : List Bool) :
    ps.foldl nextValidBits bits = qs.foldl nextValidBits bits := by
  induction h generalizing bits with
  | nil => rfl
  | cons hpq _ ih => rw [List.foldl_cons, List.foldl_cons, nextValidBits_congr hpq, ih]

theorem map_v_shiftIn (x : Slot) (pipe : List Slot) : (shiftIn x pipe).map Slot.v = (x.v :: pipe.map Slot.v).dropLast := by
  rw [shiftIn, List.map_dropLast, List.map_cons]

theorem map_v_clearSlots (stream t : Nat) (held : List (Bool × Byte)) (k : Nat) (pipe : List Slot) :
    (clearSlots stream t held k pipe).map Slot.v = List.replicate pipe.length false := by
  rw [List.eq_replicate_iff, List.length_map, clearSlots_length]
  refine ⟨rfl, fun v hv => ?_⟩
  obtain ⟨x, hx, rfl⟩ := List.mem_map.1 hv
  exact clearSlots_v hx

theorem validBits_after_edge {s t : State} {p : PortInputs} (hp : s.presented = .edge p) (h : step s = .next t) :
    validBits t = nextValidBits (validBits s) p := by
  cases hr : p.rst with
  | true =>
    obtain rfl := Host.Outcome.next.inj ((step_of_reset hp hr).symm.trans h)
    rw [nextValidBits, if_pos hr, validBits, validBits, resetEdge_pipe, map_v_clearSlots, List.length_map]
  | false =>
    obtain ⟨t', x, ht', hpipe, hxv, -⟩ := step_without_reset hp hr
    obtain rfl := Host.Outcome.next.inj (ht'.symm.trans h)
    rw [nextValidBits, if_neg (by simp [hr]), validBits, hpipe, map_v_shiftIn, hxv, validBits]

/-- In every cycle, the valid bits are those that the control bits sampled make of the first ones. -/
theorem atCycle_validBits (s : State) {ins : List PortInputs} {m : Nat} (hm : m ≤ ins.length) :
    ∃ t, atCycle s ins m = .next t ∧ validBits t = (ins.take m).foldl nextValidBits (validBits s) :=
  atCycle_keeps nextValidBits (fun bits t => validBits t = bits) (fun _ h => h)
    (fun hbits hp ht => hbits ▸ validBits_after_edge hp ht) rfl hm

/-- `rsp_valid` is the last of the valid bits (R32). -/
theorem rspValid_eq_getLast (s : State) : s.rspValid = (validBits s).getLast?.getD false := by
  rw [validBits, List.getLast?_map, State.rspValid, State.lastSlot]
  cases s.pipe.getLast? <;> rfl

/-- A command is answered after `LAT` cycles without reset, whatever it is and whatever state it was presented in. -/
theorem rspValid_after_latency {s : State} {ins : List PortInputs} {n lat : Nat} {p : PortInputs}
    (hlen : s.pipe.length = lat) (hlat : 1 ≤ lat) (hn : n + lat ≤ ins.length) (hp : ins[n]? = some p)
    (hv : p.reqValid = true) (noReset : ∀ q ∈ window ins n lat, q.rst = false) :
    ∃ t, atCycle s ins (n + lat) = .next t ∧ t.rspValid = true := by
  subst hlen
  obtain ⟨t, ht, answered, -⟩ := latencyAndDiscard s ins n p hlat hp hv hn
  exact ⟨t, ht, (answered noReset).1⟩

/-- Settles O39: the valid bits of every cycle are computed from control bits alone, and `rsp_valid` is one of them;
each command is answered after `LAT` cycles, so two of the same cycle are answered in the same cycle. -/
theorem isochronyAtTheInterface : Obligations.IsochronyAtTheInterface := by
  constructor
  · intro s s' ins ins' m hbits hcontrol hm
    obtain ⟨t, ht, htbits⟩ := atCycle_validBits s hm
    obtain ⟨t', ht', htbits'⟩ := atCycle_validBits s' (hcontrol.length_eq ▸ hm)
    have hsame : validBits t = validBits t' := by
      rw [htbits, htbits', hbits, foldl_nextValidBits_congr (List.forall₂_take m hcontrol)]
    exact ⟨t, t', ht, ht', hsame, by rw [rspValid_eq_getLast, rspValid_eq_getLast, hsame]⟩
  · intro s s' ins ins' n lat p p' hlat hlen hlen' hn hn' hp hp' hv hv' noReset noReset'
    obtain ⟨t, ht, answered⟩ := rspValid_after_latency hlen hlat hn hp hv noReset
    obtain ⟨t', ht', answered'⟩ := rspValid_after_latency hlen' hlat hn' hp' hv' noReset'
    exact ⟨t, t', ht, ht', answered, answered'⟩

/-- A command and `LAT - 1` idle cycles after it: its response is on the outputs, and `LAT` is what it was (R31). -/
theorem response_of_request_then_idle {s : State} {lat : Nat} (hlen : s.pipe.length = lat) (hlat : 1 ≤ lat) (op : OpCode)
    (a b : Byte) :
    ∃ t, atCycle s (.request op a b :: List.replicate (lat - 1) .idle) lat = .next t ∧ t.pipe.length = lat ∧
      t.response = some (coreF op a b) := by
  subst hlen
  have noReset : ∀ q ∈ PortInputs.request op a b :: List.replicate (s.pipe.length - 1) .idle, q.rst = false := by
    intro q hq
    obtain rfl | hidle := List.mem_cons.1 hq
    · rfl
    · rw [List.eq_of_mem_replicate hidle]; rfl
  have hm : s.pipe.length ≤ (PortInputs.request op a b :: List.replicate (s.pipe.length - 1) .idle).length := by
    rw [List.length_cons, List.length_replicate, Nat.sub_add_cancel hlat]
  obtain ⟨t, ht, hshape, -⟩ := atCycle_tracks s hm
  obtain ⟨t', ht', hresponse⟩ := response_without_reset (p := .request op a b) hlat noReset le_rfl hm (by simp)
  obtain rfl := Host.Outcome.next.inj (ht.symm.trans ht')
  exact ⟨t, ht, hshape, hresponse.trans ((requested_eq_some_iff _ _).2 ⟨rfl, rfl⟩)⟩

/-- Settles O43: the first response is the byte on `rsp_data` that the second command carries. -/
theorem dependentCommandsChain : Obligations.DependentCommandsChain := by
  intro s op op' a b c hs
  obtain ⟨t, ht, hlen, hfirst⟩ := response_of_request_then_idle rfl hs op a b
  obtain ⟨-, hdata⟩ := (response_eq_some_iff t _).1 hfirst
  obtain ⟨u, hu, -, hsecond⟩ := response_of_request_then_idle hlen hs op' t.rspData c
  exact ⟨t, ht, hfirst, u, hu, hdata ▸ hsecond⟩

end Sys2Proof.Safety
end
